-- ==== Sys2Proof/Word.lean ====
section
/-! DEFINITION. The words of the block: bytes, code points and 64-bit request and response words (R6, R7).
Every value is unsigned and nothing sign-extends (R7). -/

namespace Sys2Proof

/-- `BYTE_W` = 8 bits, unsigned (R6, R10). -/
abbrev Byte := BitVec 8

/-- `CP_W` = 32 bits on the ports; logically 0 .. 2^31-1 (R6, R10). -/
abbrev CodePoint := BitVec 32

/-- `REQ_W` = `RSP_W` = 64 bits (R6). -/
abbrev Word64 := BitVec 64

end Sys2Proof
end

