-- ==== Sys2Proof/Config.lean ====
section
/-! DEFINITION. What the spec fixes for every block, and what it leaves open (R6). The open values are constants
without a body: no proof can see what they are, so a claim holds whatever they are. -/

namespace Sys2Proof.Config

/-- `MAX_SEQ`: the longest sequence, in bytes (R6). -/
def maxSeq : Nat := 6

/-- The value at which the AVAIL field saturates, `AVAIL_W` being 3 bits (R6, R69). -/
def availMax : Nat := 7

/-- What `LATENCY` of the `n`-th draw exceeds 1 by: any number (R6, R211; log 2). -/
opaque extraLatency : Nat → Nat

/-- `LATENCY` of the `n`-th draw: any integer ≥ 1, possibly different for each request (R6, R28, R211; log 2). -/
def latency (n : Nat) : Nat := extraLatency n + 1

/-- `RESET_RSP`: RSP after the reset that makes the `n`-th draw (R6, R200; log 3). -/
opaque resetRsp : Nat → Word64

/-- PEND after the reset that makes the `n`-th draw (R21, R200: unspecified; log 4). -/
opaque resetPend : Nat → Word64

/-- CLK_LAT after the reset that makes the `n`-th draw (R21: unspecified; log 4). -/
opaque resetClkLat : Nat → Nat

/-- RSP while a request is in flight, one value for each edge (R30: unspecified; log 5). -/
opaque inFlightRsp : Nat → Word64

/-- `BASE_ADDR`: where an integrator maps the ports. No rule reads it (R40; log 21). -/
opaque baseAddr : Nat

end Sys2Proof.Config
end

