-- ==== Sys2Proof/Syntax.lean ====
section
/-! DEFINITION. The five block operations of the opcode map (R62), with their operands taken from the request
word (R60, R69). -/

namespace Sys2Proof

/-- The six bytes W[0..5] a DECODE request carries, W[0] being the byte at the cursor (R10, R60). -/
structure Window where
  w0 : Byte
  w1 : Byte
  w2 : Byte
  w3 : Byte
  w4 : Byte
  w5 : Byte
deriving DecidableEq, Repr

/-- One constructor per row of the opcode table (R62). -/
inductive Instr where
  /-- CLASSIFY: the source's `sequenceLength(byte)` (R104). -/
  | classify (b : Byte)
  /-- ISLEAD: the source's `isValidLeadByte(byte)` (R105). -/
  | islead (b : Byte)
  /-- ISTRAIL: the source's `isValidTrailByte(byte)` (R106). -/
  | istrail (b : Byte)
  /-- DECODE: the source's `decodeOne(cursor, end)`; `avail` = min(end − cursor, 7) (R122). -/
  | decode (avail : BitVec 3) (w : Window)
  /-- ENCODE: the source's `encodeOne(outputCursor, codePoint)` (R143). -/
  | encode (v : CodePoint)
deriving DecidableEq, Repr

end Sys2Proof
end

