-- ==== Sys2Proof/WellFormed.lean ====
section
/-! DEFINITION. Which instructions have a legal request word: a DECODE has AVAIL ≠ 0 (R63); the operands of the
others are free. -/

namespace Sys2Proof

/-- The operand check of R63: AVAIL = 0 is no DECODE. -/
def Instr.wellFormed : Instr → Bool
  | .classify _ => true
  | .islead _ => true
  | .istrail _ => true
  | .decode avail _ => avail != 0#3
  | .encode _ => true

end Sys2Proof
end

