-- ==== Sys2Proof/Decode.lean ====
section
/-! DEFINITION. The request word (R60): its fields, legality (R63, R64), the total decoding function (R65), the
encoder, and the opcode table's rows. -/

namespace Sys2Proof

/-! ## The fields of a request word (R60, R69) -/

/-- `OP` = REQ[2:0]. -/
def reqOp (r : Word64) : BitVec 3 := r.extractLsb' 0 3

/-- `AVAIL` = REQ[5:3]. -/
def reqAvail (r : Word64) : BitVec 3 := r.extractLsb' 3 3

/-- `RES0` = REQ[7:6]. -/
def reqRes0 (r : Word64) : BitVec 2 := r.extractLsb' 6 2

/-- Lane `B<k>` = REQ[8k+15:8k+8], k = 0..5 (R44). -/
def reqLane (r : Word64) (k : Nat) : Byte := r.extractLsb' (8 * k + 8) 8

/-- `RES1` = REQ[63:56]. -/
def reqRes1 (r : Word64) : BitVec 8 := r.extractLsb' 56 8

/-- The window W[0..5] of a DECODE request (R60). -/
def reqWindow (r : Word64) : Window :=
  ⟨reqLane r 0, reqLane r 1, reqLane r 2, reqLane r 3, reqLane r 4, reqLane r 5⟩

/-- `CP` = REQ[39:8] of an ENCODE request (R45, R60). -/
def reqCodePoint (r : Word64) : CodePoint := r.extractLsb' 8 32

/-! ## Legality and decoding -/

/-- The legality predicate `Legal(REQ)` (R64). -/
def legal (r : Word64) : Bool :=
  if 4 < (reqOp r).toNat then false
  else if reqRes0 r != 0#2 || reqRes1 r != 0#8 then false
  else if (reqOp r).toNat ≤ 2 then reqAvail r == 0#3 && r.extractLsb' 16 40 == 0#40
  else if (reqOp r).toNat = 3 then reqAvail r != 0#3
  else reqAvail r == 0#3 && r.extractLsb' 40 16 == 0#16

/-- Why a request word is illegal (R63). The block reports none of this: every illegal word gets the one status
ILLEGAL_REQUEST (R184). -/
inductive Reject where
  /-- OP is 101, 110 or 111. -/
  | reservedOp
  /-- RES0 ≠ 0 or RES1 ≠ 0. -/
  | reservedField
  /-- AVAIL ≠ 0 in an operation that must have it 0. -/
  | availNotZero
  /-- A lane that must be 0 is not. -/
  | laneNotZero
  /-- DECODE with AVAIL = 0. -/
  | availZero
deriving DecidableEq, Repr

/-- A byte operation of R60's layout `REQ64-BYTE`, or why the word is not one. -/
def decodeByteOp (op : Byte → Instr) (r : Word64) : Except Reject Instr :=
  if reqAvail r ≠ 0#3 then .error .availNotZero
  else if r.extractLsb' 16 40 ≠ 0#40 then .error .laneNotZero
  else .ok (op (reqLane r 0))

/-- A DECODE of R60's layout `REQ64-WINDOW`, or why the word is not one. -/
def decodeWindowOp (r : Word64) : Except Reject Instr :=
  if reqAvail r = 0#3 then .error .availZero
  else .ok (.decode (reqAvail r) (reqWindow r))

/-- An ENCODE of R60's layout `REQ64-CP`, or why the word is not one. -/
def decodeCodePointOp (r : Word64) : Except Reject Instr :=
  if reqAvail r ≠ 0#3 then .error .availNotZero
  else if r.extractLsb' 40 16 ≠ 0#16 then .error .laneNotZero
  else .ok (.encode (reqCodePoint r))

/-- The decoding function, total on all 2^64 words: exactly one operation, or illegal (R62, R63, R65). -/
def decodeRequest (r : Word64) : Except Reject Instr :=
  if 4 < (reqOp r).toNat then .error .reservedOp
  else if reqRes0 r ≠ 0#2 ∨ reqRes1 r ≠ 0#8 then .error .reservedField
  else if reqOp r = 0#3 then decodeByteOp .classify r
  else if reqOp r = 1#3 then decodeByteOp .islead r
  else if reqOp r = 2#3 then decodeByteOp .istrail r
  else if reqOp r = 3#3 then decodeWindowOp r
  else decodeCodePointOp r

/-! ## The encoder -/

/-- A request word from its fields, both reserved fields 0 (R60). -/
def requestWord (op avail : BitVec 3) (lanes : BitVec 48) : Word64 :=
  0#8 ++ lanes ++ 0#2 ++ avail ++ op

/-- The six lanes B5..B0 that carry a window, W[0] in the least significant lane (R44). -/
def Window.lanes (w : Window) : BitVec 48 := w.w5 ++ w.w4 ++ w.w3 ++ w.w2 ++ w.w1 ++ w.w0

/-- The one word of a well-formed instruction (R60, R61, R62). -/
def encodeRequest : Instr → Word64
  | .classify b => requestWord 0#3 0#3 (b.setWidth 48)
  | .islead b => requestWord 1#3 0#3 (b.setWidth 48)
  | .istrail b => requestWord 2#3 0#3 (b.setWidth 48)
  | .decode avail w => requestWord 3#3 avail w.lanes
  | .encode v => requestWord 4#3 0#3 (v.setWidth 48)

/-! ## The opcode table -/

/-- The `mask` of the instruction's row in opcode_table.json. -/
def rowMask : Instr → Word64
  | .classify _ => 0xFFFFFFFFFFFF00FF#64
  | .islead _ => 0xFFFFFFFFFFFF00FF#64
  | .istrail _ => 0xFFFFFFFFFFFF00FF#64
  | .decode _ _ => 0xFF000000000000C7#64
  | .encode _ => 0xFFFFFF00000000FF#64

/-- The `match` of the instruction's row in opcode_table.json. -/
def rowMatch : Instr → Word64
  | .classify _ => 0x0000000000000000#64
  | .islead _ => 0x0000000000000001#64
  | .istrail _ => 0x0000000000000002#64
  | .decode _ _ => 0x0000000000000003#64
  | .encode _ => 0x0000000000000004#64

/-- What the decoder reads from a table row's word `w` of `nbits` bits; every bit above `nbits` is 0. A request is
one 64-bit word (R61), so a longer one is no instruction. -/
def decodeTableWord (nbits w : Nat) : Option Instr :=
  if w % 2 ^ nbits < 2 ^ 64 then (decodeRequest (BitVec.ofNat 64 (w % 2 ^ nbits))).toOption else none

end Sys2Proof
end

