-- ==== Sys2Proof/Machine/State.lean ====
section
/-! DEFINITION. The machine's state: the block's registers (R21), the ports' coming inputs and the host (R9, R20),
the reasons a step can stop, and the state after reset (R200). -/

namespace Sys2Proof.Machine

/-- What the host does next. Its clock cycles are its own: no rule fixes when a host acts (R9, R204; log 13). -/
inductive HostAction where
  /-- One clock cycle on the ports: `req_valid` = 1 with this word, once BUSY = 0 enables it (R204), or `req_valid` = 0;
  and whether the host samples `rsp_word` in the cycle (R20, R205). -/
  | cycle (req : Option Word64) (sample : Bool)
  /-- `Req(w)`: issue the word, wait for its response and read it (R160). -/
  | request (w : Word64)
  /-- DECODEALL over the buffer (R161). -/
  | decodeAll (buf : List Byte)
  /-- ENCODEALL over the code points (R165). -/
  | encodeAll (cps : List CodePoint)
deriving DecidableEq, Repr

/-- A host procedure that has one more request to make. -/
inductive Proc where
  /-- `Req(w)` (R160). -/
  | request (w : Word64)
  /-- DECODEALL with its cursor and what it has decoded (R42, R161). -/
  | decodeAll (buf : List Byte) (pos : Nat) (out : List CodePoint)
  /-- ENCODEALL at code point `v`, with those after it and the bytes appended so far (R165). -/
  | encodeAll (v : CodePoint) (rest : List CodePoint) (out : List Byte)
deriving DecidableEq, Repr

/-- Where a procedure's current `Req` stands (R160). -/
inductive ReqPhase where
  /-- The request is on the port and held until it is accepted (R204). -/
  | present
  /-- Accepted; the host waits for `rsp_valid` (R205). -/
  | await
deriving DecidableEq, Repr

/-- The procedure the host is running. -/
structure Task where
  proc  : Proc
  phase : ReqPhase
deriving DecidableEq, Repr

/-- What a finished procedure returned. -/
inductive HostResult where
  /-- `Req(w)`: the response word (R160). -/
  | response (rsp : Word64)
  /-- DECODEALL: Ok (R161). -/
  | codePoints (cps : List CodePoint)
  /-- DECODEALL: Err with the response's STATUS (R161, R162), and the cursor, still at the failed sequence (R128). -/
  | decodeError (status : BitVec 3) (pos : Nat)
  /-- ENCODEALL: the output bytes (R165). -/
  | bytes (bs : List Byte)
deriving DecidableEq, Repr

/-- The host: it owns every buffer, cursor and output (R9). -/
structure HostAgent where
  script   : List HostAction
  task     : Option Task
  received : List Word64
  results  : List HostResult
deriving DecidableEq, Repr

/-- A host with nothing to do (log 7, 16). -/
def HostAgent.quiet : HostAgent := ⟨[], none, [], []⟩

/-- Everything the spec gives the machine (R21), with the coming `rst` levels, the host, and the index of the next
free value. The block has no other state: no register file, program counter, flags or memory (R23–R26, R40). -/
structure State where
  /-- `BUSY`: a request has been accepted and not completed. -/
  busy     : Bool
  /-- `PEND`: the accepted request word. -/
  pend     : Word64
  /-- `RSP_VALID`: RSP holds the response to the last accepted request. -/
  rspValid : Bool
  /-- `RSP`: the last response word (R22). -/
  rsp      : Word64
  /-- `CLK_LAT`: cycles remaining until completion. -/
  clkLat   : Nat
  /-- The model's own: index of the next free value (log 6). -/
  draws    : Nat
  /-- `rst` at the coming edges; 0 past the end (R20, R200; log 8). -/
  rstIn    : List Bool
  /-- The other agent (R9). -/
  host     : HostAgent
deriving DecidableEq, Repr

/-- Why the machine stops. -/
inductive Fault where
  /-- Raised by `step` when the host samples `rsp_word` while `rsp_valid` is 0 (R205). Safe: hardware goes on, with a
  value the spec does not give. -/
  | responseReadWhileInvalid
deriving DecidableEq, Repr

/-- Why the model gives no meaning. -/
inductive Refusal where
  /-- Raised by `exec` for an instruction without a meaning. Safe. No arm of this model raises it. -/
  | notModelled (mnemonic : String)
deriving DecidableEq, Repr

/-- The machine right after reset (R21, R200): BUSY and RSP_VALID are 0; RSP, PEND and CLK_LAT are free values
(logs 3, 4); the host is quiet and no further reset is scheduled (logs 6, 7, 8, 16). -/
def State.reset : State where
  busy     := false
  pend     := Config.resetPend 0
  rspValid := false
  rsp      := Config.resetRsp 0
  clkLat   := Config.resetClkLat 0
  draws    := 1
  rstIn    := []
  host     := HostAgent.quiet

end Sys2Proof.Machine
end

