-- ==== Sys2Proof/Machine/Flags.lean ====
section
/-! DEFINITION. The response word (R22, R67): status codes, the four fields, and the word they make. The block has no
other flags (R25). -/

namespace Sys2Proof.Machine

/-- The STATUS values (R180). -/
inductive Status where
  | ok
  | invalidLeadByte
  | invalidTrailByte
  | truncatedSequence
  | illegalRequest
deriving DecidableEq, Repr

/-- The number of each status; 5, 6 and 7 are never produced (R180). -/
def Status.code : Status → BitVec 3
  | .ok => 0#3
  | .invalidLeadByte => 1#3
  | .invalidTrailByte => 2#3
  | .truncatedSequence => 3#3
  | .illegalRequest => 4#3

/-- The fields of a response: `respond(STATUS, LEN, FLAG, DATA)` of R8. A field not named is 0 (R8, R68). -/
structure Response where
  status : Status
  len    : BitVec 3 := 0#3
  flag   : Bool := false
  data   : BitVec 48 := 0#48
deriving DecidableEq, Repr

/-- The response word: reserved 0, DATA[55:8], reserved 0, FLAG[6], LEN[5:3], STATUS[2:0] (R22, R67). -/
def Response.word (r : Response) : Word64 :=
  0#8 ++ r.data ++ 0#1 ++ BitVec.ofBool r.flag ++ r.len ++ r.status.code

/-- `raise E`: the status, and every other field 0 (R8, R186). -/
def errorResponse (e : Status) : Response := { status := e }

/-- `RSP.STATUS` = RSP[2:0] (R22). -/
def rspStatus (r : Word64) : BitVec 3 := r.extractLsb' 0 3

/-- `RSP.LEN` = RSP[5:3] (R22). -/
def rspLen (r : Word64) : BitVec 3 := r.extractLsb' 3 3

/-- `RSP.FLAG` = RSP[6] (R22). -/
def rspFlag (r : Word64) : BitVec 1 := r.extractLsb' 6 1

/-- `RSP.DATA` = RSP[55:8] (R22). -/
def rspData (r : Word64) : BitVec 48 := r.extractLsb' 8 48

/-- The code point of a DECODE response: `CP` = RSP[39:8] (R45, R67). -/
def rspCodePoint (r : Word64) : CodePoint := r.extractLsb' 8 32

/-- Output byte `OUT[k]` of an ENCODE response: RSP[8k+15:8k+8], k = 0..5 (R44, R67). -/
def rspOut (r : Word64) (k : Nat) : Byte := r.extractLsb' (8 * k + 8) 8

/-- The bytes a host appends after an ENCODE: exactly OUT[0..LEN−1] (R48, R165). -/
def rspOutBytes (r : Word64) : List Byte := (List.range (rspLen r).toNat).map (rspOut r)

end Sys2Proof.Machine
end

