-- ==== Sys2Proof/Machine/Operands.lean ====
section
/-! DEFINITION. The three operand forms (R60, R69) as the units read them, and the byte tests the units share: SeqLen,
IsTrail and LeadMask (R100, R102, R120). -/

namespace Sys2Proof

/-- Window byte `W[k]`, k = 0..5 (R8). No rule reads past W[5] (log 17). -/
def Window.byte (w : Window) : Nat → Byte
  | 0 => w.w0
  | 1 => w.w1
  | 2 => w.w2
  | 3 => w.w3
  | 4 => w.w4
  | 5 => w.w5
  | _ => 0#8

namespace Machine

/-- `SeqLen(b)`: the length of the sequence `b` leads, 0 when it leads none (R100). -/
def seqLen (b : Byte) : Nat :=
  if b &&& 0x80#8 = 0x00#8 then 1
  else if b &&& 0xE0#8 = 0xC0#8 then 2
  else if b &&& 0xF0#8 = 0xE0#8 then 3
  else if b &&& 0xF8#8 = 0xF0#8 then 4
  else if b &&& 0xFC#8 = 0xF8#8 then 5
  else if b &&& 0xFE#8 = 0xFC#8 then 6
  else 0

/-- `IsLead(b)` (R101). -/
def isLead (b : Byte) : Bool := seqLen b != 0

/-- `IsTrail(b)` (R102). -/
def isTrail (b : Byte) : Bool := b &&& 0xC0#8 == 0x80#8

/-- `LeadMask(n)`: the payload bits of the lead byte of an n-byte sequence (R120). Never used outside 1..6 (log 17). -/
def leadMask : Nat → Byte
  | 1 => 0x7F#8
  | 2 => 0x1F#8
  | 3 => 0x0F#8
  | 4 => 0x07#8
  | 5 => 0x03#8
  | 6 => 0x01#8
  | _ => 0x00#8

/-- The trailing positions 1 .. n−1 of an n-byte sequence: none for n ≤ 1 (R122, R124). -/
def trailPositions (n : Nat) : List Nat := List.range' 1 (n - 1)

end Machine
end Sys2Proof
end

