-- ==== Sys2Proof/Machine/Ops.lean ====
section
/-! DEFINITION. What a clock edge can do to the block's registers (R28, R29, R200), the output ports (R20), and
`raise` (R8, R188). The block has no memory and no registers to read or write besides these (R23, R40). -/

namespace Sys2Proof.Machine

/-- The inputs of the block in one clock cycle (R20). -/
structure PortIn where
  rst      : Bool
  reqValid : Bool
  reqWord  : Word64
deriving DecidableEq, Repr

/-! ## Output ports -/

/-- `req_ready` = ¬BUSY ∧ ¬rst (R20). -/
def State.reqReady (s : State) (rst : Bool) : Bool := !s.busy && !rst

/-- `rsp_valid`: RSP_VALID (R20), and 0 while rst = 1 (R200; log 10). -/
def State.rspValidPort (s : State) (rst : Bool) : Bool := s.rspValid && !rst

/-- `rsp_word` = RSP (R20). -/
def State.rspWord (s : State) : Word64 := s.rsp

/-! ## The writes of each edge -/

/-- The writes of a Complete step: the whole response at once, RSP_VALID set, BUSY cleared (R29, R49). -/
def State.complete (r : Response) (s : State) : State :=
  { s with rsp := r.word, rspValid := true, busy := false }

/-- `raise E`, the machine's whole exception mechanism: the same Complete step, with the error's response. No state is
saved and control goes nowhere, so there is no return either (R8, R186, R188, R189). -/
def State.raise (e : Status) (s : State) : State := s.complete (errorResponse e)

/-- The Accept step (R28). RSP is unspecified from here to the Complete step (R30; log 5). -/
def State.accept (w : Word64) (s : State) : State :=
  { s with
    pend := w, busy := true, rspValid := false, clkLat := Config.latency s.draws,
    rsp := Config.inFlightRsp s.draws, draws := s.draws + 1 }

/-- An edge with BUSY = 1 and CLK_LAT > 1 (R29); RSP stays unspecified (R30; log 5). -/
def State.wait (s : State) : State :=
  { s with clkLat := s.clkLat - 1, rsp := Config.inFlightRsp s.draws, draws := s.draws + 1 }

/-- An edge with rst = 1 (R200). PEND, RSP and CLK_LAT are unspecified after it (logs 3, 4). -/
def State.resetEdge (s : State) : State :=
  { s with
    busy := false, rspValid := false, pend := Config.resetPend s.draws, rsp := Config.resetRsp s.draws,
    clkLat := Config.resetClkLat s.draws, draws := s.draws + 1 }

/-! ## Which edge it is -/

/-- The kinds of rising edge the block tells apart (R28, R29, R200). -/
inductive EdgeKind where
  | reset
  | complete
  | wait
  | accept
  | idle
deriving DecidableEq, Repr

/-- Which of them an edge is. BUSY = 1 with CLK_LAT = 0 cannot arise; it completes (log 11). -/
def edgeKind (p : PortIn) (s : State) : EdgeKind :=
  if p.rst then .reset
  else if s.busy then (if s.clkLat ≤ 1 then .complete else .wait)
  else if p.reqValid then .accept
  else .idle

end Sys2Proof.Machine
end

