-- ==== Sys2Proof/Machine/Classifier.lean ====
section
/-! DEFINITION. The classifier unit CLS: CLASSIFY, ISLEAD, ISTRAIL (R104–R106). All three are pure and total. -/

namespace Sys2Proof.Machine

/-- `respond(STATUS=OK, LEN=SeqLen(b))`; LEN = 0 is a value, not an error (R104). -/
def classifyResponse (b : Byte) : Response := { status := .ok, len := BitVec.ofNat 3 (seqLen b) }

/-- `respond(STATUS=OK, FLAG=IsLead(b))` (R105). -/
def isleadResponse (b : Byte) : Response := { status := .ok, flag := isLead b }

/-- `respond(STATUS=OK, FLAG=IsTrail(b))` (R106). -/
def istrailResponse (b : Byte) : Response := { status := .ok, flag := isTrail b }

/-- CLASSIFY (R104). -/
def execClassify (b : Byte) (s : State) : Host.Outcome State Fault Refusal :=
  .next (s.complete (classifyResponse b))

/-- ISLEAD (R105). -/
def execIslead (b : Byte) (s : State) : Host.Outcome State Fault Refusal :=
  .next (s.complete (isleadResponse b))

/-- ISTRAIL (R106). -/
def execIstrail (b : Byte) (s : State) : Host.Outcome State Fault Refusal :=
  .next (s.complete (istrailResponse b))

end Sys2Proof.Machine
end

