-- ==== Sys2Proof/Machine/Decoder.lean ====
section
/-! DEFINITION. The decoder unit DEC: DECODE (R120–R129). Overlong forms, surrogates, values above 0x10FFFF and 5- and
6-byte sequences are accepted (R2, R126). -/

namespace Sys2Proof.Machine

/-- Trailing byte `k`'s contribution to the code point of an n-byte sequence (R121). -/
def trailPart (n : Nat) (w : Window) (k : Nat) : CodePoint :=
  (w.byte k &&& 0x3F#8).setWidth 32 <<< (6 * (n - 1 - k))

/-- `Assemble(n, W)`: the code point of the n-byte sequence W[0..n−1], in 32-bit arithmetic (R121). -/
def assemble (n : Nat) (w : Window) : CodePoint :=
  if n = 1 then (w.w0 &&& 0x7F#8).setWidth 32
  else (trailPositions n).foldl (fun acc k => acc ||| trailPart n w k)
    ((w.w0 &&& leadMask n).setWidth 32 <<< (6 * (n - 1)))

/-- Step 3 of R122: every byte at positions 1..n−1 is a trailing byte. -/
def trailsValid (n : Nat) (w : Window) : Bool := (trailPositions n).all fun k => isTrail (w.byte k)

/-- The validation of R122 in its normative order: truncation, trailing bytes, lead byte (R123). It answers the length
or the first failure. -/
def checkSequence (avail : BitVec 3) (w : Window) : Except Status Nat :=
  if avail.toNat < seqLen w.w0 then .error .truncatedSequence
  else if trailsValid (seqLen w.w0) w = false then .error .invalidTrailByte
  else if seqLen w.w0 = 0 then .error .invalidLeadByte
  else .ok (seqLen w.w0)

/-- The response to a DECODE: an error's code alone (R186), or the length and the code point in DATA[31:0] (R122). -/
def decodeResponse (avail : BitVec 3) (w : Window) : Response :=
  match checkSequence avail w with
  | .error e => errorResponse e
  | .ok n => { status := .ok, len := BitVec.ofNat 3 n, data := (assemble n w).setWidth 48 }

/-- DECODE (R122). An error is raised by the same Complete step (R188). -/
def execDecode (avail : BitVec 3) (w : Window) (s : State) : Host.Outcome State Fault Refusal :=
  .next (s.complete (decodeResponse avail w))

end Sys2Proof.Machine
end

