-- ==== Sys2Proof/Machine/Encoder.lean ====
section
/-! DEFINITION. The encoder unit ENC: ENCODE (R140–R148). It never fails (R145). -/

namespace Sys2Proof.Machine

/-- `EncLen(v)`, by unsigned comparison (R140). -/
def encLen (v : CodePoint) : Nat :=
  if v < 0x80#32 then 1
  else if v < 0x800#32 then 2
  else if v < 0x10000#32 then 3
  else if v < 0x200000#32 then 4
  else if v < 0x4000000#32 then 5
  else 6

/-- `Prefix(n)`, n = 2..6: the high bits that mark the lead of an n-byte sequence (R141). -/
def leadPrefix : Nat → Byte
  | 2 => 0xC0#8
  | 3 => 0xE0#8
  | 4 => 0xF0#8
  | 5 => 0xF8#8
  | 6 => 0xFC#8
  | _ => 0x00#8

/-- `OUT[0]`: the value as-is for n = 1, else `Prefix(n) | ((v >> 6(n−1)) & LeadMask(n))` (R141). -/
def leadByte (n : Nat) (v : CodePoint) : Byte :=
  if n = 1 then v.setWidth 8 else leadPrefix n ||| ((v >>> (6 * (n - 1))).setWidth 8 &&& leadMask n)

/-- `OUT[k]`, 1 ≤ k < n: `0x80 | ((v >> 6(n−1−k)) & 0x3F)` (R142). -/
def trailByte (n : Nat) (v : CodePoint) (k : Nat) : Byte :=
  0x80#8 ||| ((v >>> (6 * (n - 1 - k))).setWidth 8 &&& 0x3F#8)

/-- `OUT[k]`, k = 0..5, of length n: the lead, a trailing byte, or 0x00 past the output (R143, R68). -/
def outByte (n : Nat) (v : CodePoint) (k : Nat) : Byte :=
  if k = 0 then leadByte n v else if k < n then trailByte n v k else 0x00#8

/-- DATA = {OUT[5], OUT[4], OUT[3], OUT[2], OUT[1], OUT[0]} (R143). -/
def encodeData (n : Nat) (v : CodePoint) : BitVec 48 :=
  outByte n v 5 ++ outByte n v 4 ++ outByte n v 3 ++ outByte n v 2 ++ outByte n v 1 ++ outByte n v 0

/-- The response to an ENCODE: OK for every v, bit 31 discarded by the formulas (R143, R144). -/
def encodeResponse (v : CodePoint) : Response :=
  { status := .ok, len := BitVec.ofNat 3 (encLen v), data := encodeData (encLen v) v }

/-- ENCODE (R143). -/
def execEncode (v : CodePoint) (s : State) : Host.Outcome State Fault Refusal :=
  .next (s.complete (encodeResponse v))

end Sys2Proof.Machine
end

