-- ==== Sys2Proof/Machine/Dispatch.lean ====
section
/-! DEFINITION. One arm per instruction (R66). -/

namespace Sys2Proof.Machine

def exec (i : Instr) (s : State) : Host.Outcome State Fault Refusal :=
  match i with
  | .classify b => Sys2Proof.Machine.execClassify b s
  | .islead b => Sys2Proof.Machine.execIslead b s
  | .istrail b => Sys2Proof.Machine.execIstrail b s
  | .decode avail w => Sys2Proof.Machine.execDecode avail w s
  | .encode v => Sys2Proof.Machine.execEncode v s

end Sys2Proof.Machine
end

