-- ==== Sys2Proof/Machine/Edge.lean ====
section
/-! DEFINITION. The block at one rising edge (R28, R29, R200), and the request word that `withFetchWord` places. -/

namespace Sys2Proof.Machine

/-- The Complete step: the pending request is decoded and executed; an illegal word raises ILLEGAL_REQUEST and does
nothing else (R29, R63, R66). -/
def completeEdge (s : State) : Host.Outcome State Fault Refusal :=
  match decodeRequest s.pend with
  | .ok i => exec i s
  | .error _ => .next (s.raise .illegalRequest)

/-- The block at an edge with these inputs (R28, R29, R200). -/
def blockEdge (p : PortIn) (s : State) : Host.Outcome State Fault Refusal :=
  match edgeKind p s with
  | .reset => .next s.resetEdge
  | .complete => completeEdge s
  | .wait => .next s.wait
  | .accept => .next (s.accept p.reqWord)
  | .idle => .next s

/-- A table row's word `w` of `nbits` bits as a request word, every bit above `nbits` being 0 (R61). -/
def requestOfBits (nbits w : Nat) : Word64 := BitVec.ofNat 64 (w % 2 ^ nbits)

end Sys2Proof.Machine
end

