-- ==== Sys2Proof/Machine/Execute.lean ====
section
/-! DEFINITION. `Execute(REQ)` (R66): the response to a request as a function of its word alone (R27). -/

namespace Sys2Proof.Machine

/-- The response of each operation (R66). -/
def response : Instr → Response
  | .classify b => classifyResponse b
  | .islead b => isleadResponse b
  | .istrail b => istrailResponse b
  | .decode avail w => decodeResponse avail w
  | .encode v => encodeResponse v

/-- `Execute(REQ)`: legality first, then the operation (R66, R187). -/
def execute (r : Word64) : Word64 :=
  match decodeRequest r with
  | .ok i => (response i).word
  | .error _ => (errorResponse .illegalRequest).word

end Sys2Proof.Machine
end

