-- ==== Sys2Proof/Machine/HostProcs.lean ====
section
/-! DEFINITION. The host (R9): what it puts on the ports in a cycle, what it does at the edge, and its procedures
`Req`, DECODEALL and ENCODEALL (R160–R168). Last, the two procedures as plain functions. -/

namespace Sys2Proof.Machine

/-! ## The requests a procedure makes -/

/-- The window at `pos`: buf[pos .. pos+5], with 0x00 past the end (R42, R161). -/
def windowAt (buf : List Byte) (pos : Nat) : Window :=
  ⟨buf.getD pos 0#8, buf.getD (pos + 1) 0#8, buf.getD (pos + 2) 0#8,
   buf.getD (pos + 3) 0#8, buf.getD (pos + 4) 0#8, buf.getD (pos + 5) 0#8⟩

/-- A = min(L − pos, 7): the bytes remaining, saturated (R69, R161). -/
def availAt (buf : List Byte) (pos : Nat) : BitVec 3 := BitVec.ofNat 3 (min (buf.length - pos) Config.availMax)

/-- The DECODE word of the sequence at `pos` (R161). -/
def decodeWordAt (buf : List Byte) (pos : Nat) : Word64 :=
  encodeRequest (.decode (availAt buf pos) (windowAt buf pos))

/-- The ENCODE word of `v` (R165). -/
def encodeWordOf (v : CodePoint) : Word64 := encodeRequest (.encode v)

/-- The word of a procedure's current request (R160, R161, R165). -/
def Proc.word : Proc → Word64
  | .request w => w
  | .decodeAll buf pos _ => decodeWordAt buf pos
  | .encodeAll v _ _ => encodeWordOf v

/-! ## How a procedure goes on -/

/-- The procedure returns. -/
def HostAgent.finish (r : HostResult) (h : HostAgent) : HostAgent :=
  { h with task := none, results := h.results ++ [r] }

/-- The procedure makes its next request. -/
def HostAgent.present (p : Proc) (h : HostAgent) : HostAgent := { h with task := some ⟨p, .present⟩ }

/-- The head of DECODEALL's loop: `while pos != L` (R161). -/
def HostAgent.decodeLoop (buf : List Byte) (pos : Nat) (out : List CodePoint) (h : HostAgent) : HostAgent :=
  if pos = buf.length then h.finish (.codePoints out) else h.present (.decodeAll buf pos out)

/-- The head of ENCODEALL's loop: `for v in cps` (R165). -/
def HostAgent.encodeLoop (cps : List CodePoint) (out : List Byte) (h : HostAgent) : HostAgent :=
  match cps with
  | [] => h.finish (.bytes out)
  | v :: rest => h.present (.encodeAll v rest out)

/-- What a procedure does with its response: DECODEALL stops at the first error, and otherwise appends the code point
and advances by LEN (R161, R162); ENCODEALL appends OUT[0..LEN−1] (R165). -/
def HostAgent.absorb (p : Proc) (rsp : Word64) (h : HostAgent) : HostAgent :=
  match p with
  | .request _ => h.finish (.response rsp)
  | .decodeAll buf pos out =>
    if rspStatus rsp ≠ Status.ok.code then h.finish (.decodeError (rspStatus rsp) pos)
    else h.decodeLoop buf (pos + (rspLen rsp).toNat) (out ++ [rspCodePoint rsp])
  | .encodeAll _ rest out => h.encodeLoop rest (out ++ rspOutBytes rsp)

/-! ## The host at one edge -/

/-- The word the host has to present next (R204). -/
def HostAgent.nextWord (h : HostAgent) : Option Word64 :=
  match h.task with
  | some ⟨p, .present⟩ => some p.word
  | some ⟨_, .await⟩ => none
  | none =>
    match h.script with
    | .cycle req _ :: _ => req
    | _ => none

/-- What the host has on the port in this cycle: the word, when `req_valid` = 1 (R20). The host's presenting step is
enabled only when BUSY = 0 (R204); until then the word waits. -/
def State.reqPort (s : State) : Option Word64 := if s.busy then none else s.host.nextWord

/-- The level of `rst` in this cycle (R20; log 8). -/
def State.rst (s : State) : Bool := s.rstIn.headD false

/-- The inputs of the block in this cycle (R20). -/
def State.portIn (s : State) : PortIn :=
  ⟨s.rst, s.reqPort.isSome, s.reqPort.getD 0#64⟩

/-- The host step of a scripted cycle is enabled: always, but for one that presents a request, which is enabled only
when BUSY = 0 (R204). -/
def State.cycleEnabled (s : State) (req : Option Word64) : Bool := req.isNone || !s.busy

/-- The host samples `rsp_word` in this cycle (R205). -/
def State.samples (s : State) : Bool :=
  match s.host.task, s.host.script with
  | none, .cycle req sample :: _ => s.cycleEnabled req && sample
  | _, _ => false

/-- The host at the edge, from the outputs of the cycle before it. A running procedure waits for `req_ready`, then for
`rsp_valid`, and reads the response before its next request (R160, R204–R206). A scripted cycle that is not enabled
waits (R204). A host that samples `rsp_word` while `rsp_valid` is 0 faults (R205). -/
def hostEdge (s : State) : Except Fault HostAgent :=
  match s.host.task with
  | some ⟨p, .present⟩ =>
    if s.reqReady s.rst then .ok { s.host with task := some ⟨p, .await⟩ } else .ok s.host
  | some ⟨p, .await⟩ =>
    if s.rspValidPort s.rst then .ok (s.host.absorb p s.rspWord) else .ok s.host
  | none =>
    match s.host.script with
    | [] => .ok s.host
    | .cycle req sample :: rest =>
      if !s.cycleEnabled req then .ok s.host
      else if sample then
        if s.rspValidPort s.rst then .ok { s.host with script := rest, received := s.host.received ++ [s.rspWord] }
        else .error .responseReadWhileInvalid
      else .ok { s.host with script := rest }
    | .request w :: rest => .ok ({ s.host with script := rest }.present (.request w))
    | .decodeAll buf :: rest => .ok ({ s.host with script := rest }.decodeLoop buf 0 [])
    | .encodeAll cps :: rest => .ok ({ s.host with script := rest }.encodeLoop cps [])

/-- The host lets one cycle pass before what it does next; a running procedure needs no such cycle, since it waits
while BUSY = 1. -/
def HostAgent.pauseOneCycle (h : HostAgent) : HostAgent :=
  if h.task.isSome then h else { h with script := .cycle none false :: h.script }

/-! ## The procedures as functions -/

/-- DECODEALL from `pos` with at most `fuel` requests; none when they do not suffice (R161, R163). -/
def decodeFrom (buf : List Byte) : Nat → Nat → List CodePoint → Option HostResult
  | 0, pos, out => if pos = buf.length then some (.codePoints out) else none
  | fuel + 1, pos, out =>
    if pos = buf.length then some (.codePoints out)
    else
      let rsp := execute (decodeWordAt buf pos)
      if rspStatus rsp ≠ Status.ok.code then some (.decodeError (rspStatus rsp) pos)
      else decodeFrom buf fuel (pos + (rspLen rsp).toNat) (out ++ [rspCodePoint rsp])

/-- `DECODEALL(buf, L)`: it ends after at most L requests (R161, R163). -/
def decodeAll (buf : List Byte) : Option HostResult := decodeFrom buf buf.length 0 []

/-- The bytes one ENCODE appends (R165). -/
def encodeBytes (v : CodePoint) : List Byte := rspOutBytes (execute (encodeWordOf v))

/-- `ENCODEALL(cps)` (R165). -/
def encodeAll (cps : List CodePoint) : List Byte := cps.flatMap encodeBytes

end Sys2Proof.Machine
end

