-- ==== Sys2Proof/Machine/Step.lean ====
section
/-! DEFINITION. One rising edge of the clock (R20; log 1): the host and the block both move, from the values before
the edge. -/

namespace Sys2Proof.Machine

/-- One step. -/
def step (s : State) : Host.Outcome State Fault Refusal :=
  match hostEdge s with
  | .error f => .fault f
  | .ok h => blockEdge s.portIn { s with rstIn := s.rstIn.tail, host := h }

/-- `s` with the word just accepted and its last cycle of latency left, rst = 0 and no sample at the next edge: that
edge completes it (R28, R29; log 7). -/
def State.withFetchWord (s : State) (nbits w : Nat) : State :=
  { s with
    pend := requestOfBits nbits w, busy := true, rspValid := false, clkLat := 1,
    rstIn := false :: s.rstIn, host := s.host.pauseOneCycle }

end Sys2Proof.Machine
end

