-- ==== Sys2Proof/Machine/Assembler.lean ====
section
/-! DEFINITION. The assembly syntax: one request a line into its word, and the written form of a response (R75). -/

namespace Sys2Proof.Machine

/-- Why a line has no word: the assembler refuses it (R75). -/
inductive AsmError where
  | unknownMnemonic
  | malformedNumber
  | operandCount
  | operandRange
deriving DecidableEq, Repr

/-! ## Reading a line -/

/-- A space or a tab (log 19). -/
def isBlank (c : Char) : Bool := c == ' ' || c == '\t'

/-- The text without blanks at either end. -/
def trim (cs : List Char) : List Char := ((cs.dropWhile isBlank).reverse.dropWhile isBlank).reverse

/-- The digits of R75's two number forms, each at its value. -/
def digitChars : List Char := "0123456789ABCDEF".toList

/-- The value of a digit of this base, of either case (log 19). -/
def digitVal (base : Nat) (c : Char) : Option Nat := (digitChars.take base).idxOf? c.toUpper

/-- The value of the digits in this base, the most significant first. -/
def digitsVal (base : Nat) (cs : List Char) : Option Nat :=
  cs.foldlM (fun acc c => (digitVal base c).map (acc * base + ·)) 0

/-- A number: decimal, or hexadecimal after `0x` (R75). -/
def readNumber : List Char → Option Nat
  | [] => none
  | ['0', 'x'] => none
  | '0' :: 'x' :: cs => digitsVal 16 cs
  | cs => digitsVal 10 cs

/-- The operands, separated by commas (R75). -/
def readOperands (cs : List Char) : Option (List Nat) :=
  if (trim cs).isEmpty then some [] else (cs.splitOn ',').mapM fun op => readNumber (trim op)

/-- A line's text before its comment (R75). -/
def dropComment (cs : List Char) : List Char := cs.takeWhile (· != ';')

/-! ## Operations -/

/-- `<byte>` is 0..255 (R75). -/
def asmByteOp (op : Byte → Instr) : List Nat → Except AsmError Instr
  | [b] => if b < 256 then .ok (op (BitVec.ofNat 8 b)) else .error .operandRange
  | _ => .error .operandCount

/-- `<avail>` is 1..7 and one to six `<wk>` are 0..255; omitted window bytes are 0x00 (R75). -/
def asmDecode : List Nat → Except AsmError Instr
  | avail :: w0 :: ws =>
    if 5 < ws.length then .error .operandCount
    else if avail = 0 ∨ 7 < avail ∨ (w0 :: ws).any (255 < ·) then .error .operandRange
    else .ok (.decode (BitVec.ofNat 3 avail) (windowAt ((w0 :: ws).map (BitVec.ofNat 8)) 0))
  | _ => .error .operandCount

/-- `<cp>` is 0..0xFFFFFFFF (R75). -/
def asmEncode : List Nat → Except AsmError Instr
  | [v] => if v < 2 ^ 32 then .ok (.encode (BitVec.ofNat 32 v)) else .error .operandRange
  | _ => .error .operandCount

/-- The operation a mnemonic and its operands spell (R75). -/
def asmOp (mnemonic : List Char) (operands : List Nat) : Except AsmError Instr :=
  if mnemonic = "CLASSIFY".toList then asmByteOp .classify operands
  else if mnemonic = "ISLEAD".toList then asmByteOp .islead operands
  else if mnemonic = "ISTRAIL".toList then asmByteOp .istrail operands
  else if mnemonic = "DECODE".toList then asmDecode operands
  else if mnemonic = "ENCODE".toList then asmEncode operands
  else .error .unknownMnemonic

/-- The operation on a line that has no comment and no blanks around it. -/
def asmText (cs : List Char) : Except AsmError Instr :=
  match readOperands (cs.dropWhile (!isBlank ·)) with
  | none => .error .malformedNumber
  | some operands => asmOp (cs.takeWhile (!isBlank ·)) operands

/-- One line into the word of R60; a line with nothing but blanks and a comment has none (R75; log 19). -/
def assembleLine (line : List Char) : Except AsmError (Option Word64) :=
  if (trim (dropComment line)).isEmpty then .ok none
  else (asmText (trim (dropComment line))).map fun i => some (encodeRequest i)

/-! ## Writing a response -/

/-- The name of a STATUS; 5..7 have none and are written as numbers (R180; log 20). -/
def statusName (st : BitVec 3) : List Char :=
  if st = Status.ok.code then "OK".toList
  else if st = Status.invalidLeadByte.code then "INVALID_LEAD_BYTE".toList
  else if st = Status.invalidTrailByte.code then "INVALID_TRAIL_BYTE".toList
  else if st = Status.truncatedSequence.code then "TRUNCATED_SEQUENCE".toList
  else if st = Status.illegalRequest.code then "ILLEGAL_REQUEST".toList
  else Nat.toDigits 10 st.toNat

/-- `-> STATUS=<name> LEN=<n> FLAG=<f> DATA=<hex>` (R75; log 20). -/
def writeResponse (r : Word64) : List Char :=
  "-> STATUS=".toList ++ statusName (rspStatus r) ++ " LEN=".toList ++ Nat.toDigits 10 (rspLen r).toNat ++
    " FLAG=".toList ++ Nat.toDigits 10 (rspFlag r).toNat ++ " DATA=0x".toList ++
    (Nat.toDigits 16 (rspData r).toNat).map Char.toUpper

end Sys2Proof.Machine
end

