-- ==== Sys2Proof/Safety.lean ====
section
/-! DEFINITION. What counts as a good state and a good run, in the terms the statements use. -/

namespace Sys2Proof.Machine

/-- The step goes on: no fault and no refusal. -/
def Safe (s : State) : Prop := ∃ t, step s = .next t

/-- `k` steps from `s` go on and end in `t`. -/
def RunsTo : Nat → State → State → Prop
  | 0, s, t => s = t
  | k + 1, s, t => ∃ u, step s = .next u ∧ RunsTo k u t

/-- No reset is scheduled: `rst` = 0 at every coming edge. -/
abbrev NoReset (s : State) : Prop := ∀ level ∈ s.rstIn, level = false

/-- The handshake is consistent: a busy block has latency left and shows no response; a response on show is the one
to the last accepted request (R21, R27–R30). -/
abbrev HandshakeInv (s : State) : Prop :=
  (s.busy = true → s.rspValid = false ∧ 1 ≤ s.clkLat) ∧ (s.rspValid = true → s.rsp = execute s.pend)

/-- DECODEALL's cursor stands before the end of its buffer while it has a request to make (R42, R163). -/
def Proc.inBounds : Proc → Bool
  | .request _ => true
  | .decodeAll buf pos _ => pos < buf.length
  | .encodeAll _ _ _ => true

/-- A running procedure has its cursor in bounds, and the request it waits for is the one the block holds or has
answered (R160, R163). -/
def Task.good (s : State) : Task → Bool
  | ⟨p, .present⟩ => p.inBounds
  | ⟨p, .await⟩ => p.inBounds && (!(s.busy || s.rspValid) || s.pend == p.word)

/-- The host's side of the invariant. -/
abbrev HostInv (s : State) : Prop := s.host.task.all (Task.good s) = true

/-- The two states differ at most in what the spec leaves unspecified: PEND and CLK_LAT while BUSY = 0, RSP while
RSP_VALID = 0 (R21, R30, R200). -/
abbrev AgreeWhereSpecified (s t : State) : Prop :=
  s.busy = t.busy ∧ s.rspValid = t.rspValid ∧ s.draws = t.draws ∧ s.rstIn = t.rstIn ∧ s.host = t.host ∧
  (s.busy = true → s.pend = t.pend ∧ s.clkLat = t.clkLat) ∧ (s.rspValid = true → s.rsp = t.rsp)

end Sys2Proof.Machine
end

