-- ==== Sys2Proof/Certificates/Slice0/Obligations.lean ====
section
/-! DEFINITION. The statements for the provers, and the spec's own tables written a second way: byte ranges (R100),
bit layout (R72), and response words as sums of their fields (R22). -/

open Sys2Proof Sys2Proof.Machine

namespace Sys2Proof.Spec

/-- SeqLen by the byte ranges of R100's table. -/
def lengthOfLead (b : Byte) : Nat :=
  if b.toNat ≤ 0x7F then 1
  else if b.toNat ≤ 0xBF then 0
  else if b.toNat ≤ 0xDF then 2
  else if b.toNat ≤ 0xEF then 3
  else if b.toNat ≤ 0xF7 then 4
  else if b.toNat ≤ 0xFB then 5
  else if b.toNat ≤ 0xFD then 6
  else 0

/-- A trailing byte by the byte range of R102. -/
abbrev IsTrailing (b : Byte) : Prop := 0x80 ≤ b.toNat ∧ b.toNat ≤ 0xBF

/-- The response word with these fields, each at its place of R22. -/
def responseWord (status len flag data : Nat) : Word64 :=
  BitVec.ofNat 64 (status + 8 * len + 64 * flag + 256 * data)

/-- `s` after a Complete step that answers `rsp`: nothing else changes (R29, R49). -/
def answered (s : State) (rsp : Word64) : State := { s with rsp := rsp, rspValid := true, busy := false }

/-- The bytes of a code point by the layout of R72, the length by R140's ranges; bit 31 stands nowhere (R144). -/
def bytesOf (c : CodePoint) : List Byte :=
  if c.toNat < 0x80 then [0b0#1 ++ c.extractLsb' 0 7]
  else if c.toNat < 0x800 then [0b110#3 ++ c.extractLsb' 6 5, 0b10#2 ++ c.extractLsb' 0 6]
  else if c.toNat < 0x10000 then
    [0b1110#4 ++ c.extractLsb' 12 4, 0b10#2 ++ c.extractLsb' 6 6, 0b10#2 ++ c.extractLsb' 0 6]
  else if c.toNat < 0x200000 then
    [0b11110#5 ++ c.extractLsb' 18 3, 0b10#2 ++ c.extractLsb' 12 6, 0b10#2 ++ c.extractLsb' 6 6,
     0b10#2 ++ c.extractLsb' 0 6]
  else if c.toNat < 0x4000000 then
    [0b111110#6 ++ c.extractLsb' 24 2, 0b10#2 ++ c.extractLsb' 18 6, 0b10#2 ++ c.extractLsb' 12 6,
     0b10#2 ++ c.extractLsb' 6 6, 0b10#2 ++ c.extractLsb' 0 6]
  else
    [0b1111110#7 ++ c.extractLsb' 30 1, 0b10#2 ++ c.extractLsb' 24 6, 0b10#2 ++ c.extractLsb' 18 6,
     0b10#2 ++ c.extractLsb' 12 6, 0b10#2 ++ c.extractLsb' 6 6, 0b10#2 ++ c.extractLsb' 0 6]

/-- The number whose lane `k` is the k-th byte (R44). -/
def lanes : List Byte → Nat
  | [] => 0
  | b :: bs => b.toNat + 256 * lanes bs

/-- The payload bits of the n-byte sequence in the window, the lead's highest (R70, R71, R72). -/
def payload (w : Window) : Nat → Nat
  | 1 => (w.w0.extractLsb' 0 7).toNat
  | 2 => (w.w0.extractLsb' 0 5 ++ w.w1.extractLsb' 0 6).toNat
  | 3 => (w.w0.extractLsb' 0 4 ++ w.w1.extractLsb' 0 6 ++ w.w2.extractLsb' 0 6).toNat
  | 4 => (w.w0.extractLsb' 0 3 ++ w.w1.extractLsb' 0 6 ++ w.w2.extractLsb' 0 6 ++ w.w3.extractLsb' 0 6).toNat
  | 5 => (w.w0.extractLsb' 0 2 ++ w.w1.extractLsb' 0 6 ++ w.w2.extractLsb' 0 6 ++ w.w3.extractLsb' 0 6 ++
      w.w4.extractLsb' 0 6).toNat
  | 6 => (w.w0.extractLsb' 0 1 ++ w.w1.extractLsb' 0 6 ++ w.w2.extractLsb' 0 6 ++ w.w3.extractLsb' 0 6 ++
      w.w4.extractLsb' 0 6 ++ w.w5.extractLsb' 0 6).toNat
  | _ => 0

/-- The response to a DECODE: 3 truncated, 2 bad trailing byte, 1 bad lead, in this order, else length and code
point (R122, R123, R180). -/
def decodeAnswer (avail : BitVec 3) (w : Window) : Word64 :=
  if avail.toNat < lengthOfLead w.w0 then responseWord 3 0 0 0
  else if [1, 2, 3, 4, 5].any (fun k => k < lengthOfLead w.w0 ∧ ¬ IsTrailing (w.byte k)) then responseWord 2 0 0 0
  else if lengthOfLead w.w0 = 0 then responseWord 1 0 0 0
  else responseWord 0 (lengthOfLead w.w0) 0 (payload w (lengthOfLead w.w0))

/-- `Legal(REQ)` by arithmetic on the word's number (R63, R64). -/
def LegalNumber (r : Nat) : Prop :=
  r % 8 ≤ 4 ∧ r / 2 ^ 6 % 4 = 0 ∧ r / 2 ^ 56 = 0 ∧
  (r % 8 ≤ 2 → r / 8 % 8 = 0 ∧ r / 2 ^ 16 % 2 ^ 40 = 0) ∧
  (r % 8 = 3 → r / 8 % 8 ≠ 0) ∧
  (r % 8 = 4 → r / 8 % 8 = 0 ∧ r / 2 ^ 40 % 2 ^ 16 = 0)

/-- Every sequence DECODEALL consumes from `pos` on is in shortest form (R10, R168). -/
def consumesShortest (buf : List Byte) : Nat → Nat → Bool
  | 0, _ => true
  | fuel + 1, pos =>
    if pos = buf.length then true
    else
      let rsp := execute (decodeWordAt buf pos)
      rspStatus rsp != 0#3 ||
        ((rspLen rsp).toNat == (bytesOf (rspCodePoint rsp)).length &&
          consumesShortest buf fuel (pos + (rspLen rsp).toNat))

end Sys2Proof.Spec

open Sys2Proof.Spec

/-! ## The operations -/

/-- R104, R100: a CLASSIFY word is any word under the row's mask, its operand is bits 15:8, it answers the length of
the byte range and changes nothing else; an OP = 000 word outside the mask completes with ILLEGAL_REQUEST. -/
def Obligations.ClassifyAnswersTheLengthTable : Prop :=
  (∀ (r : Word64), r &&& 0xFFFFFFFFFFFF00FF#64 = 0#64 → decodeRequest r = .ok (.classify (r.extractLsb' 8 8))) ∧
  (∀ (b : Byte) (s : State),
    exec (.classify b) s = .next (answered s (responseWord 0 (lengthOfLead b) 0 0))) ∧
  (∀ (s : State), s.pend.toNat % 8 = 0 → s.pend &&& 0xFFFFFFFFFFFF00FF#64 ≠ 0#64 →
    completeEdge s = .next (answered s (responseWord 4 0 0 0)))

/-- R105, R101: the same for ISLEAD; FLAG = 1 exactly for 0x00..0x7F and 0xC0..0xFD. -/
def Obligations.IsLeadAnswersTheLeadRanges : Prop :=
  (∀ (r : Word64), r &&& 0xFFFFFFFFFFFF00FF#64 = 1#64 → decodeRequest r = .ok (.islead (r.extractLsb' 8 8))) ∧
  (∀ (b : Byte) (s : State), exec (.islead b) s =
    .next (answered s (responseWord 0 0 (if b.toNat ≤ 0x7F ∨ (0xC0 ≤ b.toNat ∧ b.toNat ≤ 0xFD) then 1 else 0) 0))) ∧
  (∀ (s : State), s.pend.toNat % 8 = 1 → s.pend &&& 0xFFFFFFFFFFFF00FF#64 ≠ 1#64 →
    completeEdge s = .next (answered s (responseWord 4 0 0 0)))

/-- R106, R102: the same for ISTRAIL; FLAG = 1 exactly for 0x80..0xBF. -/
def Obligations.IsTrailAnswersTheTrailRange : Prop :=
  (∀ (r : Word64), r &&& 0xFFFFFFFFFFFF00FF#64 = 2#64 → decodeRequest r = .ok (.istrail (r.extractLsb' 8 8))) ∧
  (∀ (b : Byte) (s : State),
    exec (.istrail b) s = .next (answered s (responseWord 0 0 (if IsTrailing b then 1 else 0) 0))) ∧
  (∀ (s : State), s.pend.toNat % 8 = 2 → s.pend &&& 0xFFFFFFFFFFFF00FF#64 ≠ 2#64 →
    completeEdge s = .next (answered s (responseWord 4 0 0 0)))

/-- R122, R123: a DECODE word is any word under the row's mask with AVAIL ≠ 0; the checks run in order, an error
answers its code alone, and an accepted sequence answers its length and its payload bits; nothing else changes. -/
def Obligations.DecodeAnswersTheCheckedSequence : Prop :=
  (∀ (r : Word64), r &&& 0xFF000000000000C7#64 = 3#64 → r.toNat / 8 % 8 ≠ 0 →
    decodeRequest r = .ok (.decode (r.extractLsb' 3 3)
      ⟨r.extractLsb' 8 8, r.extractLsb' 16 8, r.extractLsb' 24 8, r.extractLsb' 32 8, r.extractLsb' 40 8,
        r.extractLsb' 48 8⟩)) ∧
  (∀ (avail : BitVec 3) (w : Window) (s : State), avail ≠ 0#3 →
    exec (.decode avail w) s = .next (answered s (decodeAnswer avail w))) ∧
  (∀ (s : State), s.pend.toNat % 8 = 3 →
    (s.pend &&& 0xFF000000000000C7#64 ≠ 3#64 ∨ s.pend.toNat / 8 % 8 = 0) →
    completeEdge s = .next (answered s (responseWord 4 0 0 0)))

/-- R143, R140–R142, R144: an ENCODE word is any word under the row's mask; it answers OK, the length and the bytes of
the bit layout of R72, the lanes past the output 0, for every 32-bit v; nothing else changes. -/
def Obligations.EncodeAnswersTheByteLayout : Prop :=
  (∀ (r : Word64), r &&& 0xFFFFFF00000000FF#64 = 4#64 → decodeRequest r = .ok (.encode (r.extractLsb' 8 32))) ∧
  (∀ (v : CodePoint) (s : State),
    exec (.encode v) s = .next (answered s (responseWord 0 (bytesOf v).length 0 (lanes (bytesOf v))))) ∧
  (∀ (s : State), s.pend.toNat % 8 = 4 → s.pend &&& 0xFFFFFF00000000FF#64 ≠ 4#64 →
    completeEdge s = .next (answered s (responseWord 4 0 0 0)))

/-- R103: the six patterns are disjoint; the counts per length; no byte is both lead and trailing; no lead is rejected
on other grounds. -/
def Obligations.ClassifierPatternsAreDisjointAndCounted : Prop :=
  (∀ b : Byte, [b &&& 0x80#8 == 0x00#8, b &&& 0xE0#8 == 0xC0#8, b &&& 0xF0#8 == 0xE0#8, b &&& 0xF8#8 == 0xF0#8,
    b &&& 0xFC#8 == 0xF8#8, b &&& 0xFE#8 == 0xFC#8].count true ≤ 1) ∧
  [0, 1, 2, 3, 4, 5, 6].map (fun n => ((List.range 256).filter fun b => seqLen (BitVec.ofNat 8 b) = n).length) =
    [66, 128, 32, 16, 8, 4, 2] ∧
  (∀ b : Byte, isTrail b = true → seqLen b = 0) ∧
  (seqLen 0xC0#8 = 2 ∧ seqLen 0xC1#8 = 2 ∧ seqLen 0xF5#8 = 4 ∧ seqLen 0xF6#8 = 4 ∧ seqLen 0xF7#8 = 4 ∧
    seqLen 0xF8#8 = 5 ∧ seqLen 0xF9#8 = 5 ∧ seqLen 0xFA#8 = 5 ∧ seqLen 0xFB#8 = 5 ∧ seqLen 0xFC#8 = 6 ∧
    seqLen 0xFD#8 = 6)

/-- R47: two DECODE requests with the same AVAIL and lead, and the same trailing bytes when AVAIL reaches the length,
have the same effect, whatever the other lanes hold. -/
def Obligations.DecodeReadsOnlyItsSequence : Prop :=
  ∀ (avail : BitVec 3) (w w' : Window) (s : State), w.w0 = w'.w0 →
    (lengthOfLead w.w0 ≤ avail.toNat → ∀ k, 1 ≤ k → k < lengthOfLead w.w0 → w.byte k = w'.byte k) →
    exec (.decode avail w) s = exec (.decode avail w') s

/-- R129: for one window, every AVAIL that reaches the length has the same effect, and so always 6 and 7. -/
def Obligations.DecodeIgnoresAvailPastTheLength : Prop :=
  (∀ (a a' : BitVec 3) (w : Window) (s : State), lengthOfLead w.w0 ≤ a.toNat → lengthOfLead w.w0 ≤ a'.toNat →
    exec (.decode a w) s = exec (.decode a' w) s) ∧
  (∀ (w : Window) (s : State), exec (.decode 6#3 w) s = exec (.decode 7#3 w) s)

/-- R125: on OK with length n, the code point is below 0x80 (n = 1) or 2^(5n+1) (n ≥ 2), and bit 31 is 0. -/
def Obligations.DecodedCodePointsAreInRange : Prop :=
  ∀ (avail : BitVec 3) (w : Window) (s t : State), exec (.decode avail w) s = .next t → rspStatus t.rsp = 0#3 →
    ((rspLen t.rsp).toNat = 1 → (rspCodePoint t.rsp).toNat ≤ 0x7F) ∧
    (2 ≤ (rspLen t.rsp).toNat → (rspCodePoint t.rsp).toNat < 2 ^ (5 * (rspLen t.rsp).toNat + 1)) ∧
    (rspCodePoint t.rsp).toNat < 2 ^ 31

/-- R126: every sequence with a valid lead, enough bytes and valid trailing bytes is accepted, whatever its code point:
overlong forms, surrogates, values above 0x10FFFF, 5 and 6 bytes; with the rule's four examples. -/
def Obligations.DecodeAcceptsOverlongAndExtended : Prop :=
  (∀ (avail : BitVec 3) (w : Window) (s : State), lengthOfLead w.w0 ≠ 0 → lengthOfLead w.w0 ≤ avail.toNat →
    (∀ k, 1 ≤ k → k < lengthOfLead w.w0 → IsTrailing (w.byte k)) →
    ∃ t, exec (.decode avail w) s = .next t ∧ rspStatus t.rsp = 0#3 ∧
      (rspLen t.rsp).toNat = lengthOfLead w.w0) ∧
  (∀ s : State,
    exec (.decode 2#3 ⟨0xC0#8, 0x80#8, 0#8, 0#8, 0#8, 0#8⟩) s = .next (answered s (responseWord 0 2 0 0x0)) ∧
    exec (.decode 3#3 ⟨0xE0#8, 0x80#8, 0x80#8, 0#8, 0#8, 0#8⟩) s = .next (answered s (responseWord 0 3 0 0x0)) ∧
    exec (.decode 3#3 ⟨0xED#8, 0xA0#8, 0x80#8, 0#8, 0#8, 0#8⟩) s = .next (answered s (responseWord 0 3 0 0xD800)) ∧
    exec (.decode 4#3 ⟨0xF4#8, 0x90#8, 0x80#8, 0x80#8, 0#8, 0#8⟩) s =
      .next (answered s (responseWord 0 4 0 0x110000)))

/-- R146: the output's lead has the pattern of LEN, its other bytes are trailing bytes, and for v < 2^31 no shorter
sequence decodes to v. -/
def Obligations.EncodedBytesAreTheShortestForm : Prop :=
  ∀ (v : CodePoint) (s t : State), exec (.encode v) s = .next t →
    lengthOfLead (rspOut t.rsp 0) = (rspLen t.rsp).toNat ∧
    (∀ k, 1 ≤ k → k < (rspLen t.rsp).toNat → IsTrailing (rspOut t.rsp k)) ∧
    (v.toNat < 2 ^ 31 → ∀ (avail : BitVec 3) (w : Window) (s' t' : State), exec (.decode avail w) s' = .next t' →
      rspStatus t'.rsp = 0#3 → rspCodePoint t'.rsp = v → (rspLen t.rsp).toNat ≤ (rspLen t'.rsp).toNat)

/-- R147: a window that begins with the bytes ENCODE(v) produces, any padding, any AVAIL that reaches them, decodes OK
with that length, to v for v < 2^31 and to v & 0x7FFFFFFF for the others. -/
def Obligations.EncodeThenDecodeReturnsTheCodePoint : Prop :=
  ∀ (v : CodePoint) (s t : State) (avail : BitVec 3) (w : Window) (s' : State), exec (.encode v) s = .next t →
    (∀ k, k < (rspLen t.rsp).toNat → w.byte k = rspOut t.rsp k) → (rspLen t.rsp).toNat ≤ avail.toNat →
    ∃ t', exec (.decode avail w) s' = .next t' ∧ rspStatus t'.rsp = 0#3 ∧ rspLen t'.rsp = rspLen t.rsp ∧
      (v.toNat < 2 ^ 31 → rspCodePoint t'.rsp = v) ∧
      (2 ^ 31 ≤ v.toNat → rspCodePoint t'.rsp = v &&& 0x7FFFFFFF#32)

/-- R148: the length grows by one at each of the five thresholds and nowhere else, with the rule's bytes on both sides
of each. -/
def Obligations.EncodeLengthBoundaries : Prop :=
  (∀ v : CodePoint, v.toNat ∈ [0x80, 0x800, 0x10000, 0x200000, 0x4000000] →
    (response (.encode v)).len.toNat = (response (.encode (v - 1#32))).len.toNat + 1) ∧
  (∀ v : CodePoint, v.toNat ∉ [0, 0x80, 0x800, 0x10000, 0x200000, 0x4000000] →
    (response (.encode v)).len = (response (.encode (v - 1#32))).len) ∧
  ∀ s : State,
    exec (.encode 0x7F#32) s = .next (answered s (responseWord 0 1 0 0x7F)) ∧
    exec (.encode 0x80#32) s = .next (answered s (responseWord 0 2 0 0x80C2)) ∧
    exec (.encode 0x7FF#32) s = .next (answered s (responseWord 0 2 0 0xBFDF)) ∧
    exec (.encode 0x800#32) s = .next (answered s (responseWord 0 3 0 0x80A0E0)) ∧
    exec (.encode 0xFFFF#32) s = .next (answered s (responseWord 0 3 0 0xBFBFEF)) ∧
    exec (.encode 0x10000#32) s = .next (answered s (responseWord 0 4 0 0x808090F0)) ∧
    exec (.encode 0x1FFFFF#32) s = .next (answered s (responseWord 0 4 0 0xBFBFBFF7)) ∧
    exec (.encode 0x200000#32) s = .next (answered s (responseWord 0 5 0 0x80808088F8)) ∧
    exec (.encode 0x3FFFFFF#32) s = .next (answered s (responseWord 0 5 0 0xBFBFBFBFFB)) ∧
    exec (.encode 0x4000000#32) s = .next (answered s (responseWord 0 6 0 0x8080808084FC))

/-! ## The request word -/

/-- R64, R65: the words the decoder reads are exactly the legal ones, each as a well-formed instruction, and no word
leaves the block without a response. -/
def Obligations.LegalWordsAreExactlyTheDecodedOnes : Prop :=
  (∀ r : Word64, (∃ i, decodeRequest r = .ok i ∧ i.wellFormed = true) ↔ LegalNumber r.toNat) ∧
  (∀ r : Word64, (∃ e, decodeRequest r = .error e) ↔ ¬ LegalNumber r.toNat) ∧
  (∀ r : Word64, legal r = true ↔ LegalNumber r.toNat) ∧
  (∀ s : State, ∃ t, completeEdge s = .next t ∧ t.rspValid = true)

/-- Decode and encode agree: the word of a well-formed instruction decodes to it, with every operand value. -/
def Obligations.DecodeOfEncodedRequestIsTheInstruction : Prop :=
  ∀ i : Instr, i.wellFormed = true → decodeRequest (encodeRequest i) = .ok i

/-- Each legal word is the one word of what it decodes to: the decoder drops no bit. -/
def Obligations.EncodeOfDecodedRequestIsTheWord : Prop :=
  ∀ (r : Word64) (i : Instr), decodeRequest r = .ok i → encodeRequest i = r

/-- Words written out from R60 decode to the instructions they stand for. -/
def Obligations.SampleWordsDecode : Prop :=
  decodeRequest 0x000000000000E200#64 = .ok (.classify 0xE2#8) ∧
  decodeRequest 0x000000000000C201#64 = .ok (.islead 0xC2#8) ∧
  decodeRequest 0x0000000000008002#64 = .ok (.istrail 0x80#8) ∧
  decodeRequest 0x00000000AC82E21B#64 = .ok (.decode 3#3 ⟨0xE2#8, 0x82#8, 0xAC#8, 0#8, 0#8, 0#8⟩) ∧
  decodeRequest 0x0000000001034804#64 = .ok (.encode 0x10348#32)

/-- R75: a line the assembler accepts is the word of a well-formed operation, so it has no spelling for an illegal
word. -/
def Obligations.AssembledLinesAreLegalRequests : Prop :=
  ∀ (line : List Char) (r : Word64), assembleLine line = .ok (some r) →
    LegalNumber r.toNat ∧ ∃ i, i.wellFormed = true ∧ decodeRequest r = .ok i

/-! ## The edges -/

/-- A step runs the decoded request: at the last cycle of latency with rst = 0, when the pending word decodes to `i`,
the step is `exec i` on the state in which the host has moved and the `rst` level is consumed. -/
def Obligations.StepRunsTheDecodedRequest : Prop :=
  ∀ (s : State) (h : HostAgent) (i : Instr), hostEdge s = .ok h → s.rst = false → s.busy = true → s.clkLat = 1 →
    decodeRequest s.pend = .ok i → step s = exec i { s with rstIn := s.rstIn.tail, host := h }

/-- A word placed to be fetched runs at the very next step, whatever the state (log 7). -/
def Obligations.PlacedWordRunsAtTheNextStep : Prop :=
  ∀ (s : State) (w : Nat) (i : Instr), w < 2 ^ 64 → decodeRequest (BitVec.ofNat 64 w) = .ok i →
    ∃ h, step (s.withFetchWord 64 w) =
      exec i { s with pend := BitVec.ofNat 64 w, busy := true, rspValid := false, clkLat := 1, host := h }

/-- R184: an illegal request completes with STATUS = ILLEGAL_REQUEST and every other field 0, and does nothing else. -/
def Obligations.StepAnswersAnIllegalRequest : Prop :=
  ∀ (s : State) (h : HostAgent), hostEdge s = .ok h → s.rst = false → s.busy = true → s.clkLat = 1 →
    ¬ LegalNumber s.pend.toNat →
    step s = .next (answered { s with rstIn := s.rstIn.tail, host := h } 4#64)

/-- R28: an edge with rst = 0, a request on the port and BUSY = 0 takes the word on the port, sets BUSY, clears
RSP_VALID and draws a latency of at least 1. -/
def Obligations.AcceptEdgeTakesTheWordOnThePort : Prop :=
  ∀ (s : State) (h : HostAgent) (w : Word64), hostEdge s = .ok h → s.rst = false → s.busy = false →
    s.reqPort = some w →
    ∃ t, step s = .next t ∧ t.pend = w ∧ t.busy = true ∧ t.rspValid = false ∧ 1 ≤ t.clkLat ∧
      t.rstIn = s.rstIn.tail ∧ t.host = h

/-- R28, R29: while BUSY = 1 and CLK_LAT > 1, an edge with rst = 0 counts one cycle and accepts nothing: the block at
its ports, whatever is on them, and so a step. RSP is a free value there (log 5, from R30), so the statement says
nothing of it. -/
def Obligations.BusyBlockAcceptsNothing : Prop :=
  (∀ (p : PortIn) (s : State), p.rst = false → s.busy = true → 1 < s.clkLat →
    ∃ t, blockEdge p s = .next t ∧ t.pend = s.pend ∧ t.busy = true ∧ t.rspValid = s.rspValid ∧
      t.clkLat = s.clkLat - 1 ∧ t.rstIn = s.rstIn ∧ t.host = s.host) ∧
  ∀ (s : State) (h : HostAgent), hostEdge s = .ok h → s.rst = false → s.busy = true → 1 < s.clkLat →
    ∃ t, step s = .next t ∧ t.pend = s.pend ∧ t.busy = true ∧ t.rspValid = s.rspValid ∧ t.clkLat = s.clkLat - 1 ∧
      t.rstIn = s.rstIn.tail ∧ t.host = h

/-- R29: at the last cycle of latency with rst = 0 the whole response appears at once, RSP_VALID is set and BUSY
cleared; a request on the port at that edge is not accepted; any other edge with BUSY = 1 and rst = 0 counts down. -/
def Obligations.CompleteEdgeWritesExecuteOfPend : Prop :=
  (∀ (p : PortIn) (s : State), p.rst = false → s.busy = true → s.clkLat = 1 →
    blockEdge p s = .next (answered s (execute s.pend))) ∧
  ∀ (s : State) (h : HostAgent), hostEdge s = .ok h → s.rst = false → s.busy = true →
    (s.clkLat = 1 → step s = .next (answered { s with rstIn := s.rstIn.tail, host := h } (execute s.pend))) ∧
    (1 < s.clkLat → ∃ t, step s = .next t ∧ t.busy = true ∧ t.clkLat = s.clkLat - 1)

/-- From R204: the host presents only while BUSY = 0; a running procedure holds its word until the edge at which
`req_ready` is 1 accepts it, nothing is accepted while `req_ready` is 0, and the Accept edge takes the word that is on
the port. That a scripted cycle that presents waits while BUSY = 1, with the host unchanged, is the model's choice
(log 13). -/
def Obligations.HostPresentsOnlyWhileTheBlockIsIdle : Prop :=
  (∀ s : State, s.busy = true → s.portIn.reqValid = false) ∧
  (∀ (s : State) (p : Proc), s.host.task = some ⟨p, .present⟩ →
    (s.busy = false → s.reqPort = some p.word) ∧
    (s.reqReady s.rst = false → ∃ t, step s = .next t ∧ t.host = s.host) ∧
    (s.reqReady s.rst = true → ∃ t, step s = .next t ∧ t.pend = p.word ∧ t.busy = true ∧
      t.host = { s.host with task := some ⟨p, .await⟩ })) ∧
  (∀ (s : State) (w : Word64) (sample : Bool) (rest : List HostAction), s.host.task = none →
    s.host.script = .cycle (some w) sample :: rest →
    (s.busy = true → ∃ t, step s = .next t ∧ t.host = s.host) ∧
    (s.busy = false → s.reqPort = some w)) ∧
  (∀ s t : State, step s = .next t → s.reqReady s.rst = false → t.busy = true → s.busy = true ∧ t.pend = s.pend) ∧
  (∀ (s t : State) (w : Word64), step s = .next t → s.reqReady s.rst = true → s.reqPort = some w →
    t.pend = w ∧ t.busy = true)

/-- R28: with rst = 0, no request on the port and BUSY = 0, an edge leaves every register of the block alone. -/
def Obligations.IdleEdgeLeavesTheBlock : Prop :=
  ∀ (s : State) (h : HostAgent), hostEdge s = .ok h → s.rst = false → s.busy = false → s.reqPort = none →
    step s = .next { s with rstIn := s.rstIn.tail, host := h }

/-- R200: an edge with rst = 1 clears BUSY and RSP_VALID, so a request in flight is discarded; no request is accepted
and the host sees neither `req_ready` nor `rsp_valid`. -/
def Obligations.ResetEdgeDiscardsTheRequest : Prop :=
  ∀ (s : State), s.rst = true → s.reqReady s.rst = false ∧ s.rspValidPort s.rst = false ∧
    ∀ h, hostEdge s = .ok h →
      ∃ t, step s = .next t ∧ t.busy = false ∧ t.rspValid = false ∧ t.rstIn = s.rstIn.tail ∧ t.host = h

/-- R21: after reset the block is idle and shows no response. -/
def Obligations.ResetStateIsIdle : Prop :=
  State.reset.busy = false ∧ State.reset.rspValid = false

/-- R205: a step faults exactly when the host samples `rsp_word` in a scripted cycle in which `rsp_valid` is 0; every
other step goes on, and none is refused. -/
def Obligations.StepFaultsOnlyOnAReadWithoutResponse : Prop :=
  (∀ (s : State) (f : Fault),
    step s = .fault f ↔ s.samples = true ∧ s.rspValidPort s.rst = false ∧ f = .responseReadWhileInvalid) ∧
  (∀ s : State, (∃ t, step s = .next t) ↔ ¬ (s.samples = true ∧ s.rspValidPort s.rst = false))

/-- R30: RSP and RSP_VALID = 1 hold at every edge but an Accept edge or a reset. -/
def Obligations.ResponseHoldsUntilAcceptOrReset : Prop :=
  ∀ (s t : State), HandshakeInv s → step s = .next t → s.rspValid = true → s.rst = false → s.reqPort = none →
    t.rspValid = true ∧ t.rsp = s.rsp

/-- Every step keeps the handshake: a busy block shows no response and has latency left, and a response on show is the
answer to the request the block last accepted. -/
def Obligations.StepKeepsTheHandshake : Prop :=
  ∀ (s t : State), HandshakeInv s → step s = .next t → HandshakeInv t

/-- Both invariants hold after reset. -/
def Obligations.ResetMeetsTheInvariants : Prop :=
  HandshakeInv State.reset ∧ HostInv State.reset

/-- R163, R160: every step keeps a running DECODEALL's cursor in its buffer, and the request a procedure waits for the
one the block holds. -/
def Obligations.StepKeepsTheHostCursorInBounds : Prop :=
  ∀ (s t : State), HandshakeInv s → HostInv s → step s = .next t → HostInv t

/-- R27: at a Complete edge the response is `Execute(PEND)` and depends on nothing else: two states that agree on the
pending word, and on nothing else, get the same response. -/
def Obligations.ResponseDependsOnTheRequestAlone : Prop :=
  ∀ (s s' t t' : State), s.pend = s'.pend → s.busy = true → s'.busy = true → s.clkLat = 1 → s'.clkLat = 1 →
    s.rst = false → s'.rst = false → step s = .next t → step s' = .next t' →
    t.rsp = execute s.pend ∧ t.rsp = t'.rsp ∧ t.rspValid = true ∧ t'.rspValid = true

/-- R21, R201, R205: what the spec leaves unspecified is never read: two states that differ only there fault together,
or go on to two states that differ only there. -/
def Obligations.UnspecifiedRegistersAreNeverRead : Prop :=
  ∀ (s s' : State), AgreeWhereSpecified s s' →
    (∀ f, step s = .fault f ↔ step s' = .fault f) ∧
    (∀ t, step s = .next t → ∃ t', step s' = .next t' ∧ AgreeWhereSpecified t t')

/-- R22, R68, R186: for every request word, STATUS ≤ 4, LEN ≤ 6, the reserved bits are 0, and an error has every other
field 0. -/
def Obligations.ResponsesHaveOnlyLegalFields : Prop :=
  ∀ r : Word64, (rspStatus (execute r)).toNat ≤ 4 ∧ (rspLen (execute r)).toNat ≤ 6 ∧
    (execute r).extractLsb' 7 1 = 0#1 ∧ (execute r).extractLsb' 56 8 = 0#8 ∧
    (rspStatus (execute r) ≠ 0#3 →
      rspLen (execute r) = 0#3 ∧ rspFlag (execute r) = 0#1 ∧ rspData (execute r) = 0#48)

/-- R185: which operation answers which status; DECODE can answer each of 0..3; 4 is answered to the illegal words and
to no other. -/
def Obligations.StatusesAreThoseOfTheOperation : Prop :=
  (∀ (b : Byte), rspStatus (response (.classify b)).word = 0#3 ∧ rspStatus (response (.islead b)).word = 0#3 ∧
    rspStatus (response (.istrail b)).word = 0#3) ∧
  (∀ v : CodePoint, rspStatus (response (.encode v)).word = 0#3) ∧
  (∀ (avail : BitVec 3) (w : Window), (rspStatus (response (.decode avail w)).word).toNat ≤ 3) ∧
  (∀ st : BitVec 3, st.toNat ≤ 3 → ∃ (avail : BitVec 3) (w : Window), avail ≠ 0#3 ∧
    rspStatus (response (.decode avail w)).word = st) ∧
  (∀ r : Word64, rspStatus (execute r) = 4#3 ↔ ¬ LegalNumber r.toNat)

/-- R30, R211: an accepted request is answered after exactly the latency it has left, whatever that is, when no reset
comes and the host samples nothing early: here the host runs a procedure that waits for it. -/
def Obligations.AcceptedRequestIsAnswered : Prop :=
  ∀ (s : State) (p : Proc), s.busy = true → s.rspValid = false → 1 ≤ s.clkLat → NoReset s →
    s.host.task = some ⟨p, .await⟩ →
    ∃ t, RunsTo s.clkLat s t ∧ t.rspValid = true ∧ t.rsp = execute s.pend ∧ t.busy = false ∧ t.pend = s.pend ∧
      t.host = s.host

/-! ## The host's procedures -/

/-- R163: an OK response at `pos` has 1 ≤ LEN ≤ A ≤ L − pos, DECODEALL ends after at most L requests, and an empty
buffer issues none and gives Ok([]). -/
def Obligations.DecodeAllEnds : Prop :=
  (∀ (buf : List Byte) (pos : Nat), pos < buf.length → rspStatus (execute (decodeWordAt buf pos)) = 0#3 →
    1 ≤ (rspLen (execute (decodeWordAt buf pos))).toNat ∧
    (rspLen (execute (decodeWordAt buf pos))).toNat ≤ (availAt buf pos).toNat ∧
    (availAt buf pos).toNat ≤ buf.length - pos) ∧
  (∀ buf : List Byte, ∃ r, decodeAll buf = some r) ∧ decodeAll [] = some (.codePoints [])

/-- R164: a DECODE at a lead whose sequence runs past the end of the buffer answers TRUNCATED_SEQUENCE. -/
def Obligations.DecodeAtATruncatedTailIsTruncated : Prop :=
  ∀ (buf : List Byte) (pos : Nat), pos < buf.length → buf.length - pos < lengthOfLead (buf.getD pos 0#8) →
    execute (decodeWordAt buf pos) = 3#64

/-- R166: the length of ENCODEALL's output is the sum of the encoded lengths. -/
def Obligations.EncodeAllLengthIsTheSum : Prop :=
  ∀ cps : List CodePoint, (encodeAll cps).length = (cps.map fun v => (bytesOf v).length).sum

/-- R167: for code points below 2^31, DECODEALL of ENCODEALL gives them back. -/
def Obligations.DecodeAllOfEncodeAllIsTheInput : Prop :=
  ∀ cps : List CodePoint, (∀ v ∈ cps, v.toNat < 2 ^ 31) → decodeAll (encodeAll cps) = some (.codePoints cps)

/-- R168: when DECODEALL accepts `b`, ENCODEALL of its code points is `b` exactly when every sequence consumed is in
shortest form, and is strictly shorter otherwise. -/
def Obligations.EncodeAllOfDecodeAllNeedsShortestForms : Prop :=
  ∀ (buf : List Byte) (cps : List CodePoint), decodeAll buf = some (.codePoints cps) →
    (encodeAll cps = buf ↔ consumesShortest buf buf.length 0 = true) ∧
    (consumesShortest buf buf.length 0 = false → (encodeAll cps).length < buf.length)

/-- R160, R161: run through the ports, with any latencies, DECODEALL returns what the function does. -/
def Obligations.DecodeAllRunsOnTheMachine : Prop :=
  ∀ (s : State) (buf : List Byte) (rest : List HostAction), NoReset s → s.host.task = none →
    s.host.script = .decodeAll buf :: rest →
    ∃ k t r, RunsTo k s t ∧ decodeAll buf = some r ∧
      t.host = { s.host with script := rest, results := s.host.results ++ [r] }

/-- R160, R165: run through the ports, with any latencies, ENCODEALL returns what the function does. -/
def Obligations.EncodeAllRunsOnTheMachine : Prop :=
  ∀ (s : State) (cps : List CodePoint) (rest : List HostAction), NoReset s → s.host.task = none →
    s.host.script = .encodeAll cps :: rest →
    ∃ k t, RunsTo k s t ∧
      t.host = { s.host with script := rest, results := s.host.results ++ [.bytes (encodeAll cps)] }
end

