-- ==== Sys2Proof/Laws/Bits.lean ====
section
/-! SUPPORT. Bit vectors as numbers: concatenation is a sum, and the opcode table's masks keep the fixed fields. -/

namespace Sys2Proof

/-- `{a, b}` as a number (R7). -/
theorem toNat_append_add {m n : Nat} (x : BitVec m) (y : BitVec n) :
    (x ++ y).toNat = x.toNat * 2 ^ n + y.toNat := by
  rw [BitVec.toNat_append, ← Nat.shiftLeft_add_eq_or_of_lt y.isLt, Nat.shiftLeft_eq]

/-- A request word as a number: each field at its place (R60). -/
theorem requestWord_toNat (op avail : BitVec 3) (lanes : BitVec 48) :
    (requestWord op avail lanes).toNat = op.toNat + 8 * avail.toNat + 256 * lanes.toNat := by
  simp only [requestWord, toNat_append_add, BitVec.toNat_ofNat]
  omega

/-- A window's lanes as a number: W[k] is digit k to the base 256 (R44). -/
theorem Window.lanes_toNat (w : Window) : w.lanes.toNat = w.w0.toNat + 256 * (w.w1.toNat + 256 * (w.w2.toNat +
    256 * (w.w3.toNat + 256 * (w.w4.toNat + 256 * w.w5.toNat)))) := by
  simp only [Window.lanes, toNat_append_add]
  omega

/-- The mask of the rows `REQ64-BYTE` drops bits 15:8. -/
theorem byteMask_toNat (r : Word64) :
    (r &&& 0xFFFFFFFFFFFF00FF#64).toNat = r.toNat / 2 ^ 16 * 2 ^ 16 + r.toNat % 2 ^ 8 := by
  have hr : r = r.extractLsb' 16 48 ++ r.extractLsb' 8 8 ++ r.extractLsb' 0 8 := by
    apply BitVec.eq_of_toNat_eq
    simp only [toNat_append_add, BitVec.extractLsb'_toNat, Nat.shiftRight_eq_div_pow]
    omega
  have hm : 0xFFFFFFFFFFFF00FF#64 = BitVec.allOnes 48 ++ 0#8 ++ BitVec.allOnes 8 := by decide
  rw [hm]
  conv_lhs => rw [hr]
  rw [BitVec.and_append, BitVec.and_append, BitVec.and_allOnes, BitVec.and_allOnes, BitVec.and_zero]
  simp only [toNat_append_add, BitVec.extractLsb'_toNat, Nat.shiftRight_eq_div_pow, BitVec.toNat_ofNat]
  omega

/-- The mask of the row `REQ64-WINDOW` drops bits 55:8 and 5:3. -/
theorem windowMask_toNat (r : Word64) : (r &&& 0xFF000000000000C7#64).toNat =
    r.toNat / 2 ^ 56 * 2 ^ 56 + r.toNat / 2 ^ 6 % 4 * 2 ^ 6 + r.toNat % 8 := by
  have hr : r = r.extractLsb' 56 8 ++ r.extractLsb' 8 48 ++ r.extractLsb' 6 2 ++ r.extractLsb' 3 3 ++
      r.extractLsb' 0 3 := by
    apply BitVec.eq_of_toNat_eq
    simp only [toNat_append_add, BitVec.extractLsb'_toNat, Nat.shiftRight_eq_div_pow]
    omega
  have hm : 0xFF000000000000C7#64 = BitVec.allOnes 8 ++ 0#48 ++ BitVec.allOnes 2 ++ 0#3 ++ BitVec.allOnes 3 := by
    decide
  rw [hm]
  conv_lhs => rw [hr]
  rw [BitVec.and_append, BitVec.and_append, BitVec.and_append, BitVec.and_append,
    BitVec.and_allOnes, BitVec.and_allOnes, BitVec.and_allOnes, BitVec.and_zero, BitVec.and_zero]
  simp only [toNat_append_add, BitVec.extractLsb'_toNat, Nat.shiftRight_eq_div_pow, BitVec.toNat_ofNat]
  omega

/-- The mask of the row `REQ64-CP` drops bits 39:8. -/
theorem codePointMask_toNat (r : Word64) :
    (r &&& 0xFFFFFF00000000FF#64).toNat = r.toNat / 2 ^ 40 * 2 ^ 40 + r.toNat % 2 ^ 8 := by
  have hr : r = r.extractLsb' 40 24 ++ r.extractLsb' 8 32 ++ r.extractLsb' 0 8 := by
    apply BitVec.eq_of_toNat_eq
    simp only [toNat_append_add, BitVec.extractLsb'_toNat, Nat.shiftRight_eq_div_pow]
    omega
  have hm : 0xFFFFFF00000000FF#64 = BitVec.allOnes 24 ++ 0#32 ++ BitVec.allOnes 8 := by decide
  rw [hm]
  conv_lhs => rw [hr]
  rw [BitVec.and_append, BitVec.and_append, BitVec.and_allOnes, BitVec.and_allOnes, BitVec.and_zero]
  simp only [toNat_append_add, BitVec.extractLsb'_toNat, Nat.shiftRight_eq_div_pow, BitVec.toNat_ofNat]
  omega

end Sys2Proof
end

