-- ==== Sys2Proof/Laws/Decode.lean ====
section
/-! SUPPORT. The fields of a request word as numbers (R60), what the decoder reads once they are known (R62, R63), and
the fields of an encoded word. -/

namespace Sys2Proof

/-! ## Fields as numbers -/

theorem reqOp_toNat (r : Word64) : (reqOp r).toNat = r.toNat % 8 := by
  simp [reqOp, BitVec.extractLsb'_toNat]

theorem reqAvail_toNat (r : Word64) : (reqAvail r).toNat = r.toNat / 8 % 8 := by
  simp [reqAvail, BitVec.extractLsb'_toNat, Nat.shiftRight_eq_div_pow]

theorem reqRes0_toNat (r : Word64) : (reqRes0 r).toNat = r.toNat / 2 ^ 6 % 4 := by
  simp [reqRes0, BitVec.extractLsb'_toNat, Nat.shiftRight_eq_div_pow]

theorem reqRes1_toNat (r : Word64) : (reqRes1 r).toNat = r.toNat / 2 ^ 56 := by
  have := r.isLt
  simp [reqRes1, BitVec.extractLsb'_toNat, Nat.shiftRight_eq_div_pow]
  omega

theorem reqLane_toNat (r : Word64) (k : Nat) : (reqLane r k).toNat = r.toNat / 2 ^ (8 * k + 8) % 256 := by
  simp [reqLane, BitVec.extractLsb'_toNat, Nat.shiftRight_eq_div_pow]

theorem reqCodePoint_toNat (r : Word64) : (reqCodePoint r).toNat = r.toNat / 2 ^ 8 % 2 ^ 32 := by
  simp [reqCodePoint, BitVec.extractLsb'_toNat, Nat.shiftRight_eq_div_pow]

/-! ## The decoder, once OP and the reserved fields are known -/

theorem decodeRequest_classify {r : Word64} (ho : reqOp r = 0#3) (h0 : reqRes0 r = 0#2) (h1 : reqRes1 r = 0#8) :
    decodeRequest r = decodeByteOp .classify r := by
  simp [decodeRequest, ho, h0, h1]

theorem decodeRequest_islead {r : Word64} (ho : reqOp r = 1#3) (h0 : reqRes0 r = 0#2) (h1 : reqRes1 r = 0#8) :
    decodeRequest r = decodeByteOp .islead r := by
  simp [decodeRequest, ho, h0, h1]

theorem decodeRequest_istrail {r : Word64} (ho : reqOp r = 2#3) (h0 : reqRes0 r = 0#2) (h1 : reqRes1 r = 0#8) :
    decodeRequest r = decodeByteOp .istrail r := by
  simp [decodeRequest, ho, h0, h1]

theorem decodeRequest_decode {r : Word64} (ho : reqOp r = 3#3) (h0 : reqRes0 r = 0#2) (h1 : reqRes1 r = 0#8) :
    decodeRequest r = decodeWindowOp r := by
  simp [decodeRequest, ho, h0, h1]

theorem decodeRequest_encode {r : Word64} (ho : reqOp r = 4#3) (h0 : reqRes0 r = 0#2) (h1 : reqRes1 r = 0#8) :
    decodeRequest r = decodeCodePointOp r := by
  simp [decodeRequest, ho, h0, h1]

/-! ## Fields of an encoded word -/

@[simp] theorem reqOp_requestWord (op avail : BitVec 3) (lanes : BitVec 48) :
    reqOp (requestWord op avail lanes) = op := by
  apply BitVec.eq_of_toNat_eq
  rw [reqOp_toNat, requestWord_toNat]
  omega

@[simp] theorem reqAvail_requestWord (op avail : BitVec 3) (lanes : BitVec 48) :
    reqAvail (requestWord op avail lanes) = avail := by
  apply BitVec.eq_of_toNat_eq
  rw [reqAvail_toNat, requestWord_toNat]
  omega

@[simp] theorem reqRes0_requestWord (op avail : BitVec 3) (lanes : BitVec 48) :
    reqRes0 (requestWord op avail lanes) = 0#2 := by
  apply BitVec.eq_of_toNat_eq
  rw [reqRes0_toNat, requestWord_toNat]
  simp only [BitVec.toNat_ofNat]
  omega

@[simp] theorem reqRes1_requestWord (op avail : BitVec 3) (lanes : BitVec 48) :
    reqRes1 (requestWord op avail lanes) = 0#8 := by
  apply BitVec.eq_of_toNat_eq
  rw [reqRes1_toNat, requestWord_toNat]
  simp only [BitVec.toNat_ofNat]
  omega

end Sys2Proof
end

