-- ==== Sys2Proof/Laws/Flags.lean ====
section
/-! SUPPORT. The response word and its fields (R22): the word as a sum, and each field read back from it. -/

namespace Sys2Proof.Machine

/-- The response word as a number: each field at its place (R22). -/
theorem Response.word_toNat (r : Response) :
    r.word.toNat = r.status.code.toNat + 8 * r.len.toNat + 64 * r.flag.toNat + 256 * r.data.toNat := by
  have hs := r.status.code.isLt
  have hl := r.len.isLt
  have hf : r.flag.toNat < 2 := by cases r.flag <;> decide
  simp only [Response.word, BitVec.toNat_append, BitVec.toNat_ofNat, BitVec.toNat_ofBool]
  rw [← Nat.shiftLeft_add_eq_or_of_lt r.data.isLt, ← Nat.shiftLeft_add_eq_or_of_lt (by decide : 0 % 2 ^ 1 < 2 ^ 1),
    ← Nat.shiftLeft_add_eq_or_of_lt (by omega : r.flag.toNat < 2 ^ 1), ← Nat.shiftLeft_add_eq_or_of_lt hl,
    ← Nat.shiftLeft_add_eq_or_of_lt hs]
  simp only [Nat.shiftLeft_eq]
  omega

/-- Two response words are equal when their numbers are. -/
theorem Response.word_eq_ofNat (r : Response) :
    r.word = BitVec.ofNat 64
      (r.status.code.toNat + 8 * r.len.toNat + 64 * r.flag.toNat + 256 * r.data.toNat) := by
  rw [← r.word_toNat, BitVec.ofNat_toNat, BitVec.setWidth_eq]

@[simp] theorem rspStatus_word (r : Response) : rspStatus r.word = r.status.code := by
  apply BitVec.eq_of_toNat_eq
  have := r.status.code.isLt
  simp only [rspStatus, BitVec.extractLsb'_toNat, Response.word_toNat, Nat.shiftRight_eq_div_pow]
  omega

@[simp] theorem rspLen_word (r : Response) : rspLen r.word = r.len := by
  apply BitVec.eq_of_toNat_eq
  have := r.status.code.isLt
  have := r.len.isLt
  simp only [rspLen, BitVec.extractLsb'_toNat, Response.word_toNat, Nat.shiftRight_eq_div_pow]
  omega

@[simp] theorem rspFlag_word (r : Response) : rspFlag r.word = BitVec.ofBool r.flag := by
  apply BitVec.eq_of_toNat_eq
  have := r.status.code.isLt
  have := r.len.isLt
  have : r.flag.toNat < 2 := by cases r.flag <;> decide
  simp only [rspFlag, BitVec.extractLsb'_toNat, Response.word_toNat, Nat.shiftRight_eq_div_pow, BitVec.toNat_ofBool]
  omega

@[simp] theorem rspData_word (r : Response) : rspData r.word = r.data := by
  apply BitVec.eq_of_toNat_eq
  have := r.status.code.isLt
  have := r.len.isLt
  have := r.data.isLt
  have : r.flag.toNat < 2 := by cases r.flag <;> decide
  simp only [rspData, BitVec.extractLsb'_toNat, Response.word_toNat, Nat.shiftRight_eq_div_pow]
  omega

/-- The code point is DATA[31:0] (R45). -/
theorem rspCodePoint_eq (r : Word64) : rspCodePoint r = (rspData r).setWidth 32 := by
  apply BitVec.eq_of_toNat_eq
  simp only [rspCodePoint, rspData, BitVec.extractLsb'_toNat, BitVec.toNat_setWidth]
  omega

/-- Output byte k is DATA's byte k (R44). -/
theorem rspOut_eq (r : Word64) (k : Nat) (hk : k < 6) : rspOut r k = (rspData r).extractLsb' (8 * k) 8 := by
  apply BitVec.eq_of_toNat_eq
  simp only [rspOut, rspData, BitVec.extractLsb'_toNat, Nat.shiftRight_eq_div_pow]
  interval_cases k <;> omega

/-- The reserved bits of a response word are 0 (R22, R68). -/
theorem Response.word_reserved (r : Response) :
    r.word.extractLsb' 7 1 = 0#1 ∧ r.word.extractLsb' 56 8 = 0#8 := by
  have := r.status.code.isLt
  have := r.len.isLt
  have := r.data.isLt
  have : r.flag.toNat < 2 := by cases r.flag <;> decide
  constructor <;> apply BitVec.eq_of_toNat_eq <;>
    simp only [BitVec.extractLsb'_toNat, Response.word_toNat, Nat.shiftRight_eq_div_pow, BitVec.toNat_ofNat] <;> omega

/-- Only the five codes of R180 are produced. -/
theorem Status.code_le (e : Status) : e.code.toNat ≤ 4 := by cases e <;> decide

theorem Status.code_eq_zero (e : Status) : e.code = 0#3 ↔ e = .ok := by cases e <;> decide

end Sys2Proof.Machine
end

