-- ==== Sys2Proof/Laws/Operands.lean ====
section
/-! SUPPORT. SeqLen and IsTrail (R100, R102), one lemma for each fact the units rely on. -/

namespace Sys2Proof.Machine

/-- No sequence is longer than MAX_SEQ (R6). -/
theorem seqLen_le_maxSeq (b : Byte) : seqLen b ≤ Config.maxSeq := by
  unfold seqLen
  split_ifs <;> decide

theorem seqLen_le_six (b : Byte) : seqLen b ≤ 6 := seqLen_le_maxSeq b

/-- The bytes of each length (R100's ranges). -/
theorem seqLen_of_range : ∀ b : Byte, seqLen b =
    if b.toNat < 0x80 then 1 else if b.toNat < 0xC0 then 0 else if b.toNat < 0xE0 then 2
    else if b.toNat < 0xF0 then 3 else if b.toNat < 0xF8 then 4 else if b.toNat < 0xFC then 5
    else if b.toNat < 0xFE then 6 else 0 := by decide

theorem isTrail_iff : ∀ b : Byte, isTrail b = true ↔ 0x80 ≤ b.toNat ∧ b.toNat < 0xC0 := by decide

/-- A sequence with no trailing bytes to check (R124). -/
@[simp] theorem trailPositions_zero : trailPositions 0 = [] := rfl

@[simp] theorem trailPositions_one : trailPositions 1 = [] := rfl

theorem mem_trailPositions (n k : Nat) : k ∈ trailPositions n ↔ 1 ≤ k ∧ k < n := by
  simp only [trailPositions, List.mem_range'_1]
  omega

end Sys2Proof.Machine
end

