-- ==== Sys2Proof/Laws/Decoder.lean ====
section
/-! SUPPORT. What the decoder's checks can answer (R122, R123), and the code point as a number (R121). -/

namespace Sys2Proof.Machine

/-- Everything the checks can answer: an error with its cause, in the normative order, or the length. -/
theorem checkSequence_cases (avail : BitVec 3) (w : Window) :
    (avail.toNat < seqLen w.w0 ∧ checkSequence avail w = .error .truncatedSequence) ∨
    (seqLen w.w0 ≤ avail.toNat ∧ trailsValid (seqLen w.w0) w = false ∧
      checkSequence avail w = .error .invalidTrailByte) ∨
    (seqLen w.w0 = 0 ∧ checkSequence avail w = .error .invalidLeadByte) ∨
    (seqLen w.w0 ≤ avail.toNat ∧ trailsValid (seqLen w.w0) w = true ∧ 1 ≤ seqLen w.w0 ∧
      checkSequence avail w = .ok (seqLen w.w0)) := by
  unfold checkSequence
  by_cases h1 : avail.toNat < seqLen w.w0
  · simp [h1]
  · cases h2 : trailsValid (seqLen w.w0) w with
    | false => simp [h1]; omega
    | true =>
      by_cases h3 : seqLen w.w0 = 0
      · simp [h3]
      · simp [h1, h3]; omega

theorem trailsValid_iff (n : Nat) (w : Window) :
    trailsValid n w = true ↔ ∀ k, 1 ≤ k → k < n → isTrail (w.byte k) = true := by
  simp only [trailsValid, List.all_eq_true, mem_trailPositions, and_imp]

/-- The code point of a sequence reads only W[0..n−1] (R47, R121). -/
theorem assemble_congr {n : Nat} {w w' : Window} (h0 : w.w0 = w'.w0)
    (hk : ∀ k, 1 ≤ k → k < n → w.byte k = w'.byte k) : assemble n w = assemble n w' := by
  unfold assemble
  rw [h0]
  split
  · rfl
  · refine List.foldl_ext _ _ _ fun acc k hmem => ?_
    obtain ⟨h1, h2⟩ := (mem_trailPositions n k).1 hmem
    simp only [trailPart, hk k h1 h2]

/-! ## The code point as a number -/

/-- A left shift that loses no bit (R121: no bit is shifted out of the accumulator). -/
theorem toNat_shiftLeft_of_lt {x : CodePoint} (k b : Nat) (hx : x.toNat < 2 ^ b) (hk : b + k ≤ 32) :
    (x <<< k).toNat = x.toNat * 2 ^ k := by
  rw [BitVec.toNat_shiftLeft, Nat.shiftLeft_eq, Nat.mod_eq_of_lt]
  calc x.toNat * 2 ^ k < 2 ^ b * 2 ^ k := Nat.mul_lt_mul_of_pos_right hx (by positivity)
    _ = 2 ^ (b + k) := (pow_add 2 b k).symm
    _ ≤ 2 ^ 32 := Nat.pow_le_pow_right (by decide) hk

/-- Disjoint contributions add (R121). -/
theorem toNat_or_of_disjoint {x y : CodePoint} (k : Nat) (hx : 2 ^ k ∣ x.toNat) (hy : y.toNat < 2 ^ k) :
    (x ||| y).toNat = x.toNat + y.toNat := by
  obtain ⟨q, hq⟩ := hx
  rw [BitVec.toNat_or, hq, Nat.mul_comm, ← Nat.shiftLeft_eq, ← Nat.shiftLeft_add_eq_or_of_lt hy]

/-- A trailing byte contributes its six payload bits at its place (R71, R121). -/
theorem trailPart_toNat (n : Nat) (w : Window) (k : Nat) (h : n - 1 - k ≤ 4) :
    (trailPart n w k).toNat = (w.byte k).toNat % 64 * 2 ^ (6 * (n - 1 - k)) := by
  have mark : ∀ b : Byte, ((b &&& 0x3F#8).setWidth 32).toNat = b.toNat % 64 := by decide
  rw [trailPart, toNat_shiftLeft_of_lt _ 6 (by rw [mark]; omega) (by omega), mark]

/-- The lead byte of a sequence of two bytes or more contributes its 7 − n payload bits at the top (R120, R121). -/
theorem leadPart_toNat (n : Nat) (b : Byte) (h2 : 2 ≤ n) (h6 : n ≤ 6) :
    ((b &&& leadMask n).setWidth 32 <<< (6 * (n - 1)) : CodePoint).toNat =
      b.toNat % 2 ^ (7 - n) * 2 ^ (6 * (n - 1)) := by
  have mark : ∀ b : Byte, ((b &&& leadMask n).setWidth 32).toNat = b.toNat % 2 ^ (7 - n) := by
    interval_cases n <;> decide
  rw [toNat_shiftLeft_of_lt _ (7 - n) (by rw [mark]; exact Nat.mod_lt _ (by positivity)) (by omega), mark]

/-- One more trailing byte: its six bits follow those assembled so far (R121). -/
theorem toNat_or_trailPart {acc : CodePoint} {n : Nat} {w : Window} (k a : Nat) (h : n - 1 - k ≤ 4)
    (hacc : acc.toNat = a * 2 ^ (6 * (n - 1 - k) + 6)) :
    (acc ||| trailPart n w k).toNat = (a * 64 + (w.byte k).toNat % 64) * 2 ^ (6 * (n - 1 - k)) := by
  have hk := trailPart_toNat n w k h
  have hlt : (w.byte k).toNat % 64 < 2 ^ 6 := Nat.mod_lt _ (by decide)
  rw [toNat_or_of_disjoint (6 * (n - 1 - k) + 6) (by rw [hacc]; exact Dvd.intro_left _ rfl)
    (by rw [hk, pow_add, Nat.mul_comm]; exact Nat.mul_lt_mul_of_pos_left hlt (by positivity)), hacc, hk, pow_add]
  ring

end Sys2Proof.Machine
end

