-- ==== Sys2Proof/Laws/Encoder.lean ====
section
/-! SUPPORT. EncLen and the output's lanes (R140, R143). -/

namespace Sys2Proof.Machine

theorem encLen_pos (v : CodePoint) : 1 ≤ encLen v := by
  unfold encLen
  split_ifs <;> decide

/-- No output is longer than MAX_SEQ (R6). -/
theorem encLen_le_maxSeq (v : CodePoint) : encLen v ≤ Config.maxSeq := by
  unfold encLen
  split_ifs <;> decide

theorem encLen_le_six (v : CodePoint) : encLen v ≤ 6 := encLen_le_maxSeq v

/-- EncLen by comparison of numbers (R140). -/
theorem encLen_eq (v : CodePoint) : encLen v =
    if v.toNat < 0x80 then 1 else if v.toNat < 0x800 then 2 else if v.toNat < 0x10000 then 3
    else if v.toNat < 0x200000 then 4 else if v.toNat < 0x4000000 then 5 else 6 := by
  simp [encLen, BitVec.lt_def]

/-- Lane k of DATA is OUT[k] (R44, R143). -/
theorem encodeData_lane (n : Nat) (v : CodePoint) (k : Nat) (hk : k < 6) :
    (encodeData n v).extractLsb' (8 * k) 8 = outByte n v k := by
  unfold encodeData
  generalize outByte n v = out
  apply BitVec.eq_of_toNat_eq
  have h := fun k => (out k).isLt
  have := h 0; have := h 1; have := h 2; have := h 3; have := h 4; have := h 5
  simp only [BitVec.extractLsb'_toNat, toNat_append_add, Nat.shiftRight_eq_div_pow]
  interval_cases k <;> omega

/-- A trailing byte as a number: the marker 10, and six bits of v (R71, R142). -/
theorem trailByte_toNat (n : Nat) (v : CodePoint) (k : Nat) :
    (trailByte n v k).toNat = 0x80 + v.toNat / 2 ^ (6 * (n - 1 - k)) % 64 := by
  have mark : ∀ b : Byte, (0x80#8 ||| (b &&& 0x3F#8)).toNat = 0x80 + b.toNat % 64 := by decide
  rw [trailByte, mark, BitVec.toNat_setWidth, BitVec.toNat_ushiftRight, Nat.shiftRight_eq_div_pow]
  omega

/-- A lead byte as a number, n ≥ 2: the marker of n, and 7 − n bits of v (R70, R141). -/
theorem leadByte_toNat (n : Nat) (v : CodePoint) (h2 : 2 ≤ n) (h6 : n ≤ 6) :
    (leadByte n v).toNat = (leadPrefix n).toNat + v.toNat / 2 ^ (6 * (n - 1)) % 2 ^ (7 - n) := by
  have mark : ∀ b : Byte, (leadPrefix n ||| (b &&& leadMask n)).toNat =
      (leadPrefix n).toNat + b.toNat % 2 ^ (7 - n) := by
    interval_cases n <;> decide
  rw [leadByte, if_neg (by omega), mark, BitVec.toNat_setWidth, BitVec.toNat_ushiftRight, Nat.shiftRight_eq_div_pow,
    Nat.mod_mod_of_dvd _ (Nat.pow_dvd_pow 2 (by omega : 7 - n ≤ 8))]

end Sys2Proof.Machine
end

