-- ==== Sys2Proof/Laws/PerInstr.lean ====
section
/-! SUPPORT. Statements about every instruction as syntax, one lemma per constructor. -/

namespace Sys2Proof.Laws.TableRow

/-- The instruction's word lies in its own row of opcode_table.json: `word & mask = match`. -/
def Statement (i : Instr) : Prop := encodeRequest i &&& rowMask i = rowMatch i

/-- A byte operation's word keeps only its OP under the mask of its row. -/
theorem byteWord_masked (op : BitVec 3) (b : Byte) :
    requestWord op 0#3 (b.setWidth 48) &&& 0xFFFFFFFFFFFF00FF#64 = op.setWidth 64 := by
  apply BitVec.eq_of_toNat_eq
  simp only [byteMask_toNat, requestWord_toNat, BitVec.toNat_setWidth, BitVec.toNat_ofNat]
  omega

theorem classify (b : Byte) : Statement (.classify b) := byteWord_masked 0#3 b

theorem islead (b : Byte) : Statement (.islead b) := byteWord_masked 1#3 b

theorem istrail (b : Byte) : Statement (.istrail b) := byteWord_masked 2#3 b

theorem decode (avail : BitVec 3) (w : Window) : Statement (.decode avail w) := by
  apply BitVec.eq_of_toNat_eq
  simp only [encodeRequest, rowMask, rowMatch, windowMask_toNat, requestWord_toNat, BitVec.toNat_ofNat]
  omega

theorem encode (v : CodePoint) : Statement (.encode v) := by
  apply BitVec.eq_of_toNat_eq
  simp only [encodeRequest, rowMask, rowMatch, codePointMask_toNat, requestWord_toNat, BitVec.toNat_setWidth,
    BitVec.toNat_ofNat]
  omega

end Sys2Proof.Laws.TableRow
end

