-- ==== Sys2Proof/Laws/State.lean ====
section
/-! SUPPORT. What each write of the block's registers does to each field of State: one lemma per field, by rfl. -/

namespace Sys2Proof.Machine

/-! ## output ports -/

@[simp] theorem State.rspWord_eq (s : State) : s.rspWord = s.rsp := rfl

/-! ## complete -/

@[simp] theorem State.complete_busy (r : Response) (s : State) : (s.complete r).busy = false := rfl
@[simp] theorem State.complete_pend (r : Response) (s : State) : (s.complete r).pend = s.pend := rfl
@[simp] theorem State.complete_rspValid (r : Response) (s : State) : (s.complete r).rspValid = true := rfl
@[simp] theorem State.complete_rsp (r : Response) (s : State) : (s.complete r).rsp = r.word := rfl
@[simp] theorem State.complete_clkLat (r : Response) (s : State) : (s.complete r).clkLat = s.clkLat := rfl
@[simp] theorem State.complete_draws (r : Response) (s : State) : (s.complete r).draws = s.draws := rfl
@[simp] theorem State.complete_rstIn (r : Response) (s : State) : (s.complete r).rstIn = s.rstIn := rfl
@[simp] theorem State.complete_host (r : Response) (s : State) : (s.complete r).host = s.host := rfl

/-! ## raise -/

@[simp] theorem State.raise_busy (e : Status) (s : State) : (s.raise e).busy = false := rfl
@[simp] theorem State.raise_pend (e : Status) (s : State) : (s.raise e).pend = s.pend := rfl
@[simp] theorem State.raise_rspValid (e : Status) (s : State) : (s.raise e).rspValid = true := rfl
@[simp] theorem State.raise_rsp (e : Status) (s : State) : (s.raise e).rsp = (errorResponse e).word := rfl
@[simp] theorem State.raise_clkLat (e : Status) (s : State) : (s.raise e).clkLat = s.clkLat := rfl
@[simp] theorem State.raise_draws (e : Status) (s : State) : (s.raise e).draws = s.draws := rfl
@[simp] theorem State.raise_rstIn (e : Status) (s : State) : (s.raise e).rstIn = s.rstIn := rfl
@[simp] theorem State.raise_host (e : Status) (s : State) : (s.raise e).host = s.host := rfl

/-! ## accept -/

@[simp] theorem State.accept_busy (w : Word64) (s : State) : (s.accept w).busy = true := rfl
@[simp] theorem State.accept_pend (w : Word64) (s : State) : (s.accept w).pend = w := rfl
@[simp] theorem State.accept_rspValid (w : Word64) (s : State) : (s.accept w).rspValid = false := rfl
@[simp] theorem State.accept_rsp (w : Word64) (s : State) : (s.accept w).rsp = Config.inFlightRsp s.draws := rfl
@[simp] theorem State.accept_clkLat (w : Word64) (s : State) : (s.accept w).clkLat = Config.latency s.draws := rfl
@[simp] theorem State.accept_draws (w : Word64) (s : State) : (s.accept w).draws = s.draws + 1 := rfl
@[simp] theorem State.accept_rstIn (w : Word64) (s : State) : (s.accept w).rstIn = s.rstIn := rfl
@[simp] theorem State.accept_host (w : Word64) (s : State) : (s.accept w).host = s.host := rfl

/-! ## wait -/

@[simp] theorem State.wait_busy (s : State) : (s.wait).busy = s.busy := rfl
@[simp] theorem State.wait_pend (s : State) : (s.wait).pend = s.pend := rfl
@[simp] theorem State.wait_rspValid (s : State) : (s.wait).rspValid = s.rspValid := rfl
@[simp] theorem State.wait_rsp (s : State) : (s.wait).rsp = Config.inFlightRsp s.draws := rfl
@[simp] theorem State.wait_clkLat (s : State) : (s.wait).clkLat = s.clkLat - 1 := rfl
@[simp] theorem State.wait_draws (s : State) : (s.wait).draws = s.draws + 1 := rfl
@[simp] theorem State.wait_rstIn (s : State) : (s.wait).rstIn = s.rstIn := rfl
@[simp] theorem State.wait_host (s : State) : (s.wait).host = s.host := rfl

/-! ## resetEdge -/

@[simp] theorem State.resetEdge_busy (s : State) : (s.resetEdge).busy = false := rfl
@[simp] theorem State.resetEdge_pend (s : State) : (s.resetEdge).pend = Config.resetPend s.draws := rfl
@[simp] theorem State.resetEdge_rspValid (s : State) : (s.resetEdge).rspValid = false := rfl
@[simp] theorem State.resetEdge_rsp (s : State) : (s.resetEdge).rsp = Config.resetRsp s.draws := rfl
@[simp] theorem State.resetEdge_clkLat (s : State) : (s.resetEdge).clkLat = Config.resetClkLat s.draws := rfl
@[simp] theorem State.resetEdge_draws (s : State) : (s.resetEdge).draws = s.draws + 1 := rfl
@[simp] theorem State.resetEdge_rstIn (s : State) : (s.resetEdge).rstIn = s.rstIn := rfl
@[simp] theorem State.resetEdge_host (s : State) : (s.resetEdge).host = s.host := rfl

end Sys2Proof.Machine
end

