-- ==== Sys2Proof/Laws/Step.lean ====
section
/-! SUPPORT. What each instruction, the Complete step, the host and a step can do, said once. -/

namespace Sys2Proof.Machine

/-- Every instruction's effect is a Complete step with its response (R29, R66). -/
theorem exec_eq (i : Instr) (s : State) : exec i s = .next (s.complete (response i)) := by
  cases i <;> rfl

/-- The Complete step answers `Execute(PEND)` (R29), for illegal words too (R65). -/
theorem completeEdge_eq (s : State) :
    completeEdge s = .next { s with rsp := execute s.pend, rspValid := true, busy := false } := by
  unfold completeEdge execute
  split <;> simp [exec_eq, State.complete, State.raise, *]

/-- Everything the block can do at an edge. -/
theorem blockEdge_cases (p : PortIn) (s : State) :
    (p.rst = true ∧ blockEdge p s = .next s.resetEdge) ∨
    (p.rst = false ∧ s.busy = true ∧ s.clkLat ≤ 1 ∧
      blockEdge p s = .next { s with rsp := execute s.pend, rspValid := true, busy := false }) ∨
    (p.rst = false ∧ s.busy = true ∧ 1 < s.clkLat ∧ blockEdge p s = .next s.wait) ∨
    (p.rst = false ∧ s.busy = false ∧ p.reqValid = true ∧ blockEdge p s = .next (s.accept p.reqWord)) ∨
    (p.rst = false ∧ s.busy = false ∧ p.reqValid = false ∧ blockEdge p s = .next s) := by
  unfold blockEdge edgeKind
  rw [← completeEdge_eq]
  cases p.rst <;> cases s.busy <;> cases p.reqValid <;> by_cases hl : s.clkLat ≤ 1 <;> simp [hl] <;> omega

/-- `s` at the edge, the host moved to `h` and the `rst` level consumed: what the block's edge starts from. -/
abbrev State.hostMoved (s : State) (h : HostAgent) : State := { s with rstIn := s.rstIn.tail, host := h }

theorem step_of_hostEdge {s : State} {h : HostAgent} (hh : hostEdge s = .ok h) :
    step s = blockEdge s.portIn (s.hostMoved h) := by
  unfold step
  rw [hh]

/-- Everything a step that goes on can do. -/
theorem step_cases {s t : State} (hstep : step s = .next t) :
    ∃ h, hostEdge s = .ok h ∧
      ((s.rst = true ∧ t = (s.hostMoved h).resetEdge) ∨
       (s.rst = false ∧ s.busy = true ∧ s.clkLat ≤ 1 ∧
          t = { s.hostMoved h with rsp := execute s.pend, rspValid := true, busy := false }) ∨
       (s.rst = false ∧ s.busy = true ∧ 1 < s.clkLat ∧ t = (s.hostMoved h).wait) ∨
       (s.rst = false ∧ s.busy = false ∧ ∃ w, s.reqPort = some w ∧ t = (s.hostMoved h).accept w) ∨
       (s.rst = false ∧ s.busy = false ∧ s.reqPort = none ∧ t = s.hostMoved h)) := by
  cases hh : hostEdge s with
  | error f => simp [step, hh] at hstep
  | ok h =>
    refine ⟨h, rfl, ?_⟩
    rw [step_of_hostEdge hh] at hstep
    rcases blockEdge_cases s.portIn (s.hostMoved h) with ⟨hr, he⟩ | ⟨hr, hb, hl, he⟩ | ⟨hr, hb, hl, he⟩ |
        ⟨hr, hb, hv, he⟩ | ⟨hr, hb, hv, he⟩ <;> rw [he] at hstep <;> cases hstep
    · exact .inl ⟨hr, rfl⟩
    · exact .inr (.inl ⟨hr, hb, hl, rfl⟩)
    · exact .inr (.inr (.inl ⟨hr, hb, hl, rfl⟩))
    · obtain ⟨w, hw⟩ := Option.isSome_iff_exists.1 hv
      exact .inr (.inr (.inr (.inl ⟨hr, hb, w, hw, by simp [State.portIn, hw]⟩)))
    · exact .inr (.inr (.inr (.inr ⟨hr, hb, by simpa [State.portIn] using hv, rfl⟩)))

/-- A busy block has no request on its port (R204). -/
@[simp] theorem State.reqPort_of_busy {s : State} (hb : s.busy = true) : s.reqPort = none := by simp [State.reqPort, hb]

/-- An idle block has the host's word on its port (R204). -/
theorem State.reqPort_of_idle {s : State} (hb : s.busy = false) : s.reqPort = s.host.nextWord := by
  simp [State.reqPort, hb]

/-- The host stops the machine only on a sample of an invalid response (R205). -/
theorem hostEdge_error_iff (s : State) (f : Fault) :
    hostEdge s = .error f ↔
      s.samples = true ∧ s.rspValidPort s.rst = false ∧ f = .responseReadWhileInvalid := by
  unfold hostEdge State.samples
  rcases s.host.task with _ | ⟨p, _ | _⟩
  · rcases s.host.script with _ | ⟨_ | _ | _ | _, rest⟩ <;> simp
    rename_i req sample
    cases s.cycleEnabled req <;> cases sample <;> cases s.rspValidPort s.rst <;> simp [eq_comm]
  · simp; split <;> simp
  · simp; split <;> simp

/-- The host owns no register of the block: it changes none (R9). -/
@[simp] theorem State.hostMoved_pend (s : State) (h : HostAgent) : (s.hostMoved h).pend = s.pend := rfl

end Sys2Proof.Machine
end

