-- ==== Sys2Proof/Laws/Runs.lean ====
section
/-! SUPPORT. Runs of several steps: they compose, and they are the host interface's own runs. -/

namespace Sys2Proof.Machine

theorem runsTo_one {s t : State} (h : step s = .next t) : RunsTo 1 s t := ⟨t, h, rfl⟩

theorem runsTo_add {j k : Nat} {s t u : State} (h1 : RunsTo j s t) (h2 : RunsTo k t u) : RunsTo (j + k) s u := by
  induction j generalizing s with
  | zero => cases h1; rwa [Nat.zero_add]
  | succ j ih =>
    obtain ⟨v, hv, hr⟩ := h1
    rw [Nat.succ_add]
    exact ⟨v, hv, ih hr⟩

/-- One step of a run of the host's interface that goes on. -/
theorem coreRun_next (M : Host.Core) (k : Nat) {s u : M.State} (h : M.step s = .next u) :
    M.run (k + 1) s = M.run k u := by
  rw [Host.Core.run, h]

/-- `RunsTo` implies the run of the host's interface. -/
theorem coreRun_of_runsTo {k : Nat} {s t : State} (h : RunsTo k s t) : Sys2Proof.core.run k s = .next t := by
  induction k generalizing s with
  | zero => exact congrArg Host.Outcome.next h
  | succ k ih =>
    obtain ⟨u, hu, hr⟩ := h
    exact (coreRun_next Sys2Proof.core k hu).trans (ih hr)

end Sys2Proof.Machine
end

