-- ==== Sys2Proof/Tests/Slice0.lean ====
section
/-! SUPPORT. The model's own tests, each expected value taken from the spec (its rule or its table in
95_test_vectors.md named beside it), and a witness for the hypotheses of every statement that has some. -/

namespace Sys2Proof.Tests

open Sys2Proof Sys2Proof.Machine Sys2Proof.Spec

/-- A small state: idle, no response, nothing scheduled. -/
def idle : State := ⟨false, 0#64, false, 0#64, 0, 0, [], HostAgent.quiet⟩

/-- The block holds `r` with `lat` cycles left. -/
def holding (r : Word64) (lat : Nat) : State := { idle with busy := true, pend := r, clkLat := lat }

/-- The block shows the response `rsp` to `r`. -/
def showing (r rsp : Word64) : State := { idle with pend := r, rspValid := true, rsp := rsp }

/-- A host that does these things next. -/
def script (l : List HostAction) : HostAgent := { HostAgent.quiet with script := l }

/-- A host in the middle of a procedure. -/
def running (p : Proc) (ph : ReqPhase) : HostAgent := { HostAgent.quiet with task := some ⟨p, ph⟩ }

/-- RSP after a step that goes on. -/
def rspAfter (s : State) : Option Word64 :=
  match step s with
  | .next t => some t.rsp
  | _ => none

/-- A field of the state after a step that goes on. -/
def afterStep {α : Type} (f : State → α) (s : State) : Option α :=
  match step s with
  | .next t => some (f t)
  | _ => none

/-! ## WellFormed -/

theorem test_wellFormed_refuses_avail_zero :
    (Instr.decode 0#3 ⟨0x41#8, 0#8, 0#8, 0#8, 0#8, 0#8⟩).wellFormed = false := by decide

theorem test_wellFormed_accepts_avail_one :
    (Instr.decode 1#3 ⟨0x41#8, 0#8, 0#8, 0#8, 0#8, 0#8⟩).wellFormed = true := by decide

/-! ## Decode: words written out from R60, one per row, RES1 B5..B0 RES0 AVAIL OP -/

theorem test_decode_classify :
    decodeRequest (0#8 ++ 0#40 ++ 0xE2#8 ++ 0b00#2 ++ 0b000#3 ++ 0b000#3) = .ok (.classify 0xE2#8) := by decide

theorem test_decode_islead :
    decodeRequest (0#8 ++ 0#40 ++ 0xC2#8 ++ 0b00#2 ++ 0b000#3 ++ 0b001#3) = .ok (.islead 0xC2#8) := by decide

theorem test_decode_istrail :
    decodeRequest (0#8 ++ 0#40 ++ 0x80#8 ++ 0b00#2 ++ 0b000#3 ++ 0b010#3) = .ok (.istrail 0x80#8) := by decide

theorem test_decode_decode :
    decodeRequest (0#8 ++ 0x06#8 ++ 0x05#8 ++ 0x04#8 ++ 0x03#8 ++ 0x02#8 ++ 0xFC#8 ++ 0b00#2 ++ 0b110#3 ++ 0b011#3) =
      .ok (.decode 6#3 ⟨0xFC#8, 0x02#8, 0x03#8, 0x04#8, 0x05#8, 0x06#8⟩) := by decide

theorem test_decode_encode :
    decodeRequest (0#8 ++ 0#16 ++ 0x89ABCDEF#32 ++ 0b00#2 ++ 0b000#3 ++ 0b100#3) = .ok (.encode 0x89ABCDEF#32) := by
  decide

/-- 95_test_vectors.md V5: the illegal words, each with its reason of R63. -/
theorem test_decode_rejects :
    [0x5#64, 0x6#64, 0x7#64, 0x4108#64, 0x4140#64, 0x14101#64, 0x8000000000008002#64, 0x4103#64, 0xFF0000000000410B#64,
      0x0000010000004104#64, 0x413C#64].map decodeRequest =
    [.error .reservedOp, .error .reservedOp, .error .reservedOp, .error .availNotZero, .error .reservedField,
      .error .laneNotZero, .error .reservedField, .error .availZero, .error .reservedField, .error .laneNotZero,
      .error .availNotZero] := by decide

theorem test_decodeTableWord : decodeTableWord 64 0x00000000AC82E21B =
    some (.decode 3#3 ⟨0xE2#8, 0x82#8, 0xAC#8, 0#8, 0#8, 0#8⟩) := by decide

theorem test_decodeTableWord_refuses : decodeTableWord 64 0x4103 = none := by decide

/-- R75's two examples of assembled words. -/
theorem test_encode_words :
    encodeRequest (.decode 3#3 ⟨0xE2#8, 0x82#8, 0xAC#8, 0#8, 0#8, 0#8⟩) = 0x00000000AC82E21B#64 ∧
    encodeRequest (.encode 0x10348#32) = 0x0000000001034804#64 := by decide

/-! ## One step of each operation, as the first after reset -/

/-- R104's example. -/
theorem test_classify : rspAfter (State.reset.withFetchWord 64 0xE200) = some 0x18#64 := by decide

/-- V1: LEN = 0 is no error. -/
theorem test_classify_invalid : rspAfter (State.reset.withFetchWord 64 0xFE00) = some 0#64 := by decide

/-- R105's example. -/
theorem test_islead : rspAfter (State.reset.withFetchWord 64 0xC201) = some 0x40#64 := by decide

/-- V1: 0xBF leads nothing. -/
theorem test_islead_trailing : rspAfter (State.reset.withFetchWord 64 0xBF01) = some 0#64 := by decide

/-- R106's example. -/
theorem test_istrail : rspAfter (State.reset.withFetchWord 64 0x8002) = some 0x40#64 := by decide

/-- R106: 0xC0, the neighbour above, gives 0. -/
theorem test_istrail_above : rspAfter (State.reset.withFetchWord 64 0xC002) = some 0#64 := by decide

/-- V2: the largest 6-byte sequence with AVAIL 7. -/
theorem test_decode_largest :
    rspAfter (State.reset.withFetchWord 64 0x00BFBFBFBFBFFD3B) = some 0x0000007FFFFFFF30#64 := by decide

/-- V3: truncation wins over a bad trailing byte. -/
theorem test_decode_truncated : rspAfter (State.reset.withFetchWord 64 0x41E213) = some 3#64 := by decide

/-- V4: the 4-byte example of R143. -/
theorem test_encode : rspAfter (State.reset.withFetchWord 64 0x1034804) = some 0x000000888D90F020#64 := by decide

/-- V4: bit 31 is discarded. -/
theorem test_encode_bit31 :
    rspAfter (State.reset.withFetchWord 64 0x8000000004) = some 0x008080808080FC30#64 := by decide

/-- V5: a DECODE with AVAIL = 0. -/
theorem test_illegal : rspAfter (State.reset.withFetchWord 64 0x4103) = some 4#64 := by decide

/-! ## The vectors of 95_test_vectors.md, through Execute -/

/-- V1, CLASSIFY. -/
theorem test_vectors_classify :
    [0x0000#64, 0x4100#64, 0x7F00#64, 0x8000#64, 0xBF00#64, 0xC000#64, 0xC100#64, 0xDF00#64, 0xE000#64, 0xEF00#64,
      0xF000#64, 0xF700#64, 0xF800#64, 0xFB00#64, 0xFC00#64, 0xFD00#64, 0xFE00#64, 0xFF00#64].map execute =
    [0x08#64, 0x08#64, 0x08#64, 0x00#64, 0x00#64, 0x10#64, 0x10#64, 0x10#64, 0x18#64, 0x18#64,
      0x20#64, 0x20#64, 0x28#64, 0x28#64, 0x30#64, 0x30#64, 0x00#64, 0x00#64] := by decide

/-- V2, DECODE accepted. -/
theorem test_vectors_decode_ok :
    [0x000000000000000B#64, 0x000000008080411B#64, 0x00FFFFFFFFFF7F3B#64, 0x000000000080C213#64, 0x000000000080C013#64,
      0x0000000000BFC113#64, 0x0000000080A0ED1B#64, 0x000000BFBFBFF723#64, 0x0000BFBFBFBFFB2B#64,
      0x008080808084FC33#64, 0x008080808080FC33#64].map execute =
    [0x0000000000000008#64, 0x0000000000004108#64, 0x0000000000007F08#64, 0x0000000000008010#64, 0x0000000000000010#64,
      0x0000000000007F10#64, 0x0000000000D80018#64, 0x000000001FFFFF20#64, 0x00000003FFFFFF28#64,
      0x0000000400000030#64, 0x0000000000000030#64] := by decide

/-- V3, DECODE errors. -/
theorem test_vectors_decode_error :
    [0x800B#64, 0x8080BF3B#64, 0x008080808080FF3B#64, 0xC20B#64, 0x82E213#64, 0x000080808084FC2B#64, 0x20C213#64,
      0x7FC213#64, 0x4182E21B#64, 0x003FBFBFBFBFFD33#64, 0xAC82E2E23B#64].map execute =
    [1#64, 1#64, 1#64, 3#64, 3#64, 3#64, 2#64, 2#64, 2#64, 2#64, 2#64] := by decide

/-- V4, ENCODE. -/
theorem test_vectors_encode :
    [0x4#64, 0x7F04#64, 0x8004#64, 0x20AC04#64, 0xD80004#64, 0x1000004#64, 0x10FFFF04#64, 0x20000004#64, 0x3FFFFFF04#64,
      0x400000004#64, 0x7FFFFFFF04#64, 0xFFFFFFFF04#64].map execute =
    [0x8#64, 0x7F08#64, 0x80C210#64, 0xAC82E218#64, 0x80A0ED18#64, 0x808090F020#64, 0xBFBF8FF420#64, 0x80808088F828#64,
      0xBFBFBFBFFB28#64, 0x8080808084FC30#64, 0xBFBFBFBFBFFD30#64, 0xBFBFBFBFBFFD30#64] := by decide

/-! ## Edges, V6 -/

theorem test_reset_edge :
    afterStep (fun t => (t.busy, t.rspValid)) { holding 0xE200#64 3 with rstIn := [true] } = some (false, false) := by
  decide

theorem test_accept_edge : afterStep (fun t => (t.busy, t.rspValid, t.pend))
    { showing 0#64 8#64 with host := script [.cycle (some 0xE200#64) true] } = some (true, false, 0xE200#64) := by
  decide

/-- V6: the second request is on the port while BUSY = 1. -/
theorem test_busy_edge_accepts_nothing :
    blockEdge ⟨false, true, 0x4104#64⟩ (holding 0xE200#64 2) = .next (holding 0xE200#64 2).wait ∧
    (holding 0xE200#64 2).wait.pend = 0xE200#64 ∧ (holding 0xE200#64 2).wait.busy = true := ⟨rfl, rfl, rfl⟩

/-- R29: nor at the completion edge. -/
theorem test_complete_edge_accepts_nothing : blockEdge ⟨false, true, 0x4104#64⟩ (holding 0xE200#64 1) =
    .next { showing 0xE200#64 0x18#64 with clkLat := 1 } := rfl

/-- R204: while BUSY = 1 a scripted request waits, off the port. -/
theorem test_host_presents_only_when_idle :
    ({ holding 0xE200#64 2 with host := script [.cycle (some 0x4104#64) true] } : State).portIn.reqValid = false ∧
    afterStep (fun t => t.host) { holding 0xE200#64 2 with host := script [.cycle (some 0x4104#64) true] } =
      some (script [.cycle (some 0x4104#64) true]) := by decide

/-- R205: the sample in the Accept cycle still sees the old response (R206). -/
theorem test_sample_sees_response : afterStep (fun t => t.host.received)
    { showing 0#64 8#64 with host := script [.cycle (some 0xE200#64) true] } = some [8#64] := by decide

/-- R205. -/
theorem test_sample_without_response_faults :
    step { idle with host := script [.cycle none true] } = .fault .responseReadWhileInvalid := rfl

/-! ## The host's procedures and programs -/

/-- P1. -/
theorem test_decodeAll_euro : decodeAll [0x41#8, 0xE2#8, 0x82#8, 0xAC#8] = some (.codePoints [0x41#32, 0x20AC#32]) := by
  decide

/-- P3: the error, and the cursor still at the failed lead. -/
theorem test_decodeAll_invalid_trail : decodeAll [0x41#8, 0xC2#8, 0x20#8, 0x42#8] = some (.decodeError 2#3 1) := by decide

/-- P4. -/
theorem test_decodeAll_truncated :
    decodeAll [0xE2#8, 0x82#8, 0xAC#8, 0xF0#8, 0x90#8, 0x8D#8] = some (.decodeError 3#3 3) := by decide

/-- P5: overlong input does not survive a round trip. -/
theorem test_overlong_round_trip : decodeAll [0xC0#8, 0x80#8] = some (.codePoints [0#32]) ∧ encodeAll [0#32] = [0#8] := by
  decide

/-- P2. -/
theorem test_encodeAll : encodeAll [0x24#32, 0xA2#32, 0x20AC#32, 0x10348#32, 0x7FFFFFFF#32] =
    [0x24#8, 0xC2#8, 0xA2#8, 0xE2#8, 0x82#8, 0xAC#8, 0xF0#8, 0x90#8, 0x8D#8, 0x88#8, 0xFD#8, 0xBF#8, 0xBF#8, 0xBF#8,
      0xBF#8, 0xBF#8] := by decide

/-- P1's first response moves the cursor by LEN = 1. -/
theorem test_procedure_absorbs : afterStep (fun t => t.host.task)
    { showing 0x000000AC82E24123#64 0x4108#64 with
      host := running (.decodeAll [0x41#8, 0xE2#8, 0x82#8, 0xAC#8] 0 []) .await } =
    some (some ⟨.decodeAll [0x41#8, 0xE2#8, 0x82#8, 0xAC#8] 1 [0x41#32], .present⟩) := by decide

/-- P1's two request words. -/
theorem test_decode_words : decodeWordAt [0x41#8, 0xE2#8, 0x82#8, 0xAC#8] 0 = 0x000000AC82E24123#64 ∧
    decodeWordAt [0x41#8, 0xE2#8, 0x82#8, 0xAC#8] 1 = 0x00000000AC82E21B#64 := by decide

/-! ## The assembler, R75 -/

theorem test_assemble_decode :
    assembleLine "DECODE 3, 0xE2, 0x82, 0xAC ; euro".toList = .ok (some 0x00000000AC82E21B#64) := by decide

theorem test_assemble_encode : assembleLine "ENCODE   0x10348".toList = .ok (some 0x0000000001034804#64) := by decide

theorem test_assemble_decimal : assembleLine "CLASSIFY 226".toList = .ok (some 0xE200#64) := by decide

theorem test_assemble_refuses_avail_zero : assembleLine "DECODE 0, 0x41".toList = .error .operandRange := by decide

theorem test_assemble_refuses_byte_256 : assembleLine "ISLEAD 256".toList = .error .operandRange := by decide

theorem test_assemble_comment : assembleLine "; buf".toList = .ok none := by decide

/-- V2's euro sign, written with every field of R75. -/
theorem test_write_response :
    writeResponse 0x000000000020AC18#64 = "-> STATUS=OK LEN=3 FLAG=0 DATA=0x20AC".toList := by decide

/-! ## Witnesses: states and operands that meet a statement's hypotheses, clause by clause, at the boundaries -/

/-- W[0] = 0xFD and five largest trailing bytes. -/
def largest : Window := ⟨0xFD#8, 0xBF#8, 0xBF#8, 0xBF#8, 0xBF#8, 0xBF#8⟩

theorem witness_ClassifyAnswersTheLengthTable :
    (0xFF00#64 &&& 0xFFFFFFFFFFFF00FF#64 = 0#64 ∧ 0x0#64 &&& 0xFFFFFFFFFFFF00FF#64 = 0#64) ∧
    ((holding 0x4108#64 1).pend.toNat % 8 = 0 ∧ (holding 0x4108#64 1).pend &&& 0xFFFFFFFFFFFF00FF#64 ≠ 0#64) := by
  decide

theorem witness_IsLeadAnswersTheLeadRanges :
    (0xFF01#64 &&& 0xFFFFFFFFFFFF00FF#64 = 1#64 ∧ 0x0001#64 &&& 0xFFFFFFFFFFFF00FF#64 = 1#64) ∧
    ((holding 0x14101#64 1).pend.toNat % 8 = 1 ∧ (holding 0x14101#64 1).pend &&& 0xFFFFFFFFFFFF00FF#64 ≠ 1#64) := by
  decide

theorem witness_IsTrailAnswersTheTrailRange :
    (0xFF02#64 &&& 0xFFFFFFFFFFFF00FF#64 = 2#64 ∧ 0x0002#64 &&& 0xFFFFFFFFFFFF00FF#64 = 2#64) ∧
    ((holding 0x8000000000008002#64 1).pend.toNat % 8 = 2 ∧
      (holding 0x8000000000008002#64 1).pend &&& 0xFFFFFFFFFFFF00FF#64 ≠ 2#64) := by decide

theorem witness_DecodeAnswersTheCheckedSequence :
    (0x00FFFFFFFFFFFF3B#64 &&& 0xFF000000000000C7#64 = 3#64 ∧ (0x00FFFFFFFFFFFF3B#64).toNat / 8 % 8 ≠ 0) ∧
    (0x0B#64 &&& 0xFF000000000000C7#64 = 3#64 ∧ (0x0B#64).toNat / 8 % 8 ≠ 0) ∧
    (1#3 ≠ 0#3 ∧ 7#3 ≠ 0#3) ∧
    ((holding 0xFF0000000000410B#64 1).pend.toNat % 8 = 3 ∧
      (holding 0xFF0000000000410B#64 1).pend &&& 0xFF000000000000C7#64 ≠ 3#64) ∧
    ((holding 0x4103#64 1).pend.toNat % 8 = 3 ∧ (holding 0x4103#64 1).pend.toNat / 8 % 8 = 0) := by decide

theorem witness_EncodeAnswersTheByteLayout :
    (0xFFFFFFFF04#64 &&& 0xFFFFFF00000000FF#64 = 4#64 ∧ 0x04#64 &&& 0xFFFFFF00000000FF#64 = 4#64) ∧
    ((holding 0x413C#64 1).pend.toNat % 8 = 4 ∧ (holding 0x413C#64 1).pend &&& 0xFFFFFF00000000FF#64 ≠ 4#64) := by
  decide

/-- AVAIL reaches the 2-byte sequence, and the other lanes differ. -/
theorem witness_DecodeReadsOnlyItsSequence_reached :
    (⟨0xC2#8, 0x80#8, 0#8, 0#8, 0#8, 0#8⟩ : Window).w0 = (⟨0xC2#8, 0x80#8, 1#8, 2#8, 3#8, 4#8⟩ : Window).w0 ∧
    (lengthOfLead 0xC2#8 ≤ (2#3).toNat → ∀ k, 1 ≤ k → k < lengthOfLead 0xC2#8 →
      (⟨0xC2#8, 0x80#8, 0#8, 0#8, 0#8, 0#8⟩ : Window).byte k =
        (⟨0xC2#8, 0x80#8, 1#8, 2#8, 3#8, 4#8⟩ : Window).byte k) := by
  refine ⟨rfl, fun _ k h1 h2 => ?_⟩
  have : k = 1 := by have h : k < 2 := h2; omega
  subst this
  rfl

/-- AVAIL does not reach it, and the trailing bytes differ too. -/
theorem witness_DecodeReadsOnlyItsSequence_short :
    (⟨0xC2#8, 0x80#8, 0#8, 0#8, 0#8, 0#8⟩ : Window).w0 = (⟨0xC2#8, 0x41#8, 1#8, 2#8, 3#8, 4#8⟩ : Window).w0 ∧
    ¬ lengthOfLead 0xC2#8 ≤ (1#3).toNat := by decide

theorem witness_DecodeIgnoresAvailPastTheLength :
    lengthOfLead largest.w0 ≤ (6#3).toNat ∧ lengthOfLead largest.w0 ≤ (7#3).toNat := by decide

theorem witness_DecodedCodePointsAreInRange_six :
    exec (.decode 6#3 largest) idle = .next (answered idle 0x0000007FFFFFFF30#64) ∧
    rspStatus 0x0000007FFFFFFF30#64 = 0#3 ∧ 2 ≤ (rspLen 0x0000007FFFFFFF30#64).toNat :=
  ⟨rfl, by decide, by decide⟩

theorem witness_DecodedCodePointsAreInRange_one :
    exec (.decode 1#3 ⟨0x7F#8, 0#8, 0#8, 0#8, 0#8, 0#8⟩) idle = .next (answered idle 0x7F08#64) ∧
    rspStatus 0x7F08#64 = 0#3 ∧ (rspLen 0x7F08#64).toNat = 1 :=
  ⟨rfl, by decide, by decide⟩

theorem witness_DecodeAcceptsOverlongAndExtended :
    lengthOfLead 0xE0#8 ≠ 0 ∧ lengthOfLead 0xE0#8 ≤ (3#3).toNat ∧
    ∀ k, 1 ≤ k → k < lengthOfLead 0xE0#8 → IsTrailing ((⟨0xE0#8, 0x80#8, 0xBF#8, 0#8, 0#8, 0#8⟩ : Window).byte k) := by
  refine ⟨by decide, by decide, fun k h1 h2 => ?_⟩
  have h : k = 1 ∨ k = 2 := by have h : k < 3 := h2; omega
  rcases h with rfl | rfl <;> decide

/-- 0x7F by ENCODE in one byte, and by an overlong DECODE in two. -/
theorem witness_EncodedBytesAreTheShortestForm :
    exec (.encode 0x7F#32) idle = .next (answered idle 0x7F08#64) ∧ (0x7F#32).toNat < 2 ^ 31 ∧
    exec (.decode 2#3 ⟨0xC1#8, 0xBF#8, 0#8, 0#8, 0#8, 0#8⟩) idle = .next (answered idle 0x7F10#64) ∧
    rspStatus 0x7F10#64 = 0#3 ∧ rspCodePoint 0x7F10#64 = 0x7F#32 :=
  ⟨rfl, by decide, rfl, by decide, by decide⟩

theorem witness_EncodedBytesAreTheShortestForm_trailing :
    exec (.encode 0x7FFFFFFF#32) idle = .next (answered idle 0x00BFBFBFBFBFFD30#64) ∧
    5 < (rspLen 0x00BFBFBFBFBFFD30#64).toNat := ⟨rfl, by decide⟩

theorem witness_EncodeThenDecodeReturnsTheCodePoint :
    exec (.encode 0x7FFFFFFF#32) idle = .next (answered idle 0x00BFBFBFBFBFFD30#64) ∧
    (∀ k, k < (rspLen 0x00BFBFBFBFBFFD30#64).toNat → largest.byte k = rspOut 0x00BFBFBFBFBFFD30#64 k) ∧
    (rspLen 0x00BFBFBFBFBFFD30#64).toNat ≤ (6#3).toNat ∧ (0x7FFFFFFF#32).toNat < 2 ^ 31 := by
  refine ⟨rfl, fun k h => ?_, by decide, by decide⟩
  have h6 : k < 6 := h
  interval_cases k <;> decide

theorem witness_EncodeThenDecodeReturnsTheCodePoint_bit31 :
    exec (.encode 0x80000000#32) idle = .next (answered idle 0x008080808080FC30#64) ∧
    (∀ k, k < (rspLen 0x008080808080FC30#64).toNat →
      (⟨0xFC#8, 0x80#8, 0x80#8, 0x80#8, 0x80#8, 0x80#8⟩ : Window).byte k = rspOut 0x008080808080FC30#64 k) ∧
    (rspLen 0x008080808080FC30#64).toNat ≤ (7#3).toNat ∧ 2 ^ 31 ≤ (0x80000000#32).toNat := by
  refine ⟨rfl, fun k h => ?_, by decide, by decide⟩
  have h6 : k < 6 := h
  interval_cases k <;> decide

theorem witness_EncodeLengthBoundaries :
    (0x80#32).toNat ∈ [0x80, 0x800, 0x10000, 0x200000, 0x4000000] ∧
    (0x4000000#32).toNat ∈ [0x80, 0x800, 0x10000, 0x200000, 0x4000000] ∧
    (0x7F#32).toNat ∉ [0, 0x80, 0x800, 0x10000, 0x200000, 0x4000000] ∧
    (0x81#32).toNat ∉ [0, 0x80, 0x800, 0x10000, 0x200000, 0x4000000] := by decide

theorem witness_DecodeOfEncodedRequestIsTheInstruction :
    (Instr.decode 7#3 largest).wellFormed = true ∧ (Instr.encode 0xFFFFFFFF#32).wellFormed = true := by decide

theorem witness_EncodeOfDecodedRequestIsTheWord :
    decodeRequest 0x00BFBFBFBFBFFD3B#64 = .ok (.decode 7#3 largest) := by decide

theorem witness_AssembledLinesAreLegalRequests : assembleLine "DECODE 7, 255".toList = .ok (some 0xFF3B#64) := by decide

theorem witness_StepRunsTheDecodedRequest :
    hostEdge (holding 0xE200#64 1) = .ok HostAgent.quiet ∧ (holding 0xE200#64 1).rst = false ∧
    (holding 0xE200#64 1).busy = true ∧ (holding 0xE200#64 1).clkLat = 1 ∧
    decodeRequest (holding 0xE200#64 1).pend = .ok (.classify 0xE2#8) := by decide

theorem witness_PlacedWordRunsAtTheNextStep :
    0x00FFFFFFFFFFFF3B < 2 ^ 64 ∧ decodeRequest (BitVec.ofNat 64 0x00FFFFFFFFFFFF3B) =
      .ok (.decode 7#3 ⟨0xFF#8, 0xFF#8, 0xFF#8, 0xFF#8, 0xFF#8, 0xFF#8⟩) := by decide

theorem witness_StepAnswersAnIllegalRequest :
    hostEdge (holding 0x5#64 1) = .ok HostAgent.quiet ∧ (holding 0x5#64 1).rst = false ∧
    (holding 0x5#64 1).busy = true ∧ (holding 0x5#64 1).clkLat = 1 ∧ ¬ LegalNumber (holding 0x5#64 1).pend.toNat := by
  refine ⟨by decide, by decide, by decide, by decide, fun h => ?_⟩
  exact absurd h.1 (by decide)

theorem witness_AcceptEdgeTakesTheWordOnThePort :
    hostEdge { idle with host := script [.cycle (some 0xE200#64) false] } = .ok HostAgent.quiet ∧
    ({ idle with host := script [.cycle (some 0xE200#64) false] } : State).rst = false ∧
    ({ idle with host := script [.cycle (some 0xE200#64) false] } : State).busy = false ∧
    ({ idle with host := script [.cycle (some 0xE200#64) false] } : State).reqPort = some 0xE200#64 := by decide

theorem witness_BusyBlockAcceptsNothing :
    hostEdge (holding 0xE200#64 2) = .ok HostAgent.quiet ∧ (holding 0xE200#64 2).rst = false ∧
    (holding 0xE200#64 2).busy = true ∧ 1 < (holding 0xE200#64 2).clkLat := by decide

theorem witness_CompleteEdgeWritesExecuteOfPend :
    hostEdge (holding 0x5#64 1) = .ok HostAgent.quiet ∧ (holding 0x5#64 1).rst = false ∧
    (holding 0x5#64 1).busy = true ∧ (holding 0x5#64 1).clkLat = 1 ∧ 1 < (holding 0x5#64 2).clkLat := by decide

/-- A procedure whose word is held by a reset and then accepted, and a scripted word that waits and is then accepted. -/
theorem witness_HostPresentsOnlyWhileTheBlockIsIdle :
    (holding 0xE200#64 2).busy = true ∧
    ({ idle with host := running (.request 0xE200#64) .present, rstIn := [true] } : State).reqReady true = false ∧
    ({ idle with host := running (.request 0xE200#64) .present } : State).reqReady false = true ∧
    ({ holding 0x8002#64 2 with host := script [.cycle (some 0xE200#64) false] } : State).reqReady false = false ∧
    afterStep (fun t => (t.busy, t.pend, t.clkLat))
      { holding 0x8002#64 2 with host := script [.cycle (some 0xE200#64) false] } = some (true, 0x8002#64, 1) ∧
    ({ idle with host := script [.cycle (some 0xE200#64) false] } : State).reqReady false = true ∧
    afterStep (fun t => (t.busy, t.pend))
      { idle with host := script [.cycle (some 0xE200#64) false] } = some (true, 0xE200#64) := by decide

theorem witness_IdleEdgeLeavesTheBlock :
    hostEdge (showing 0xE200#64 0x18#64) = .ok HostAgent.quiet ∧ (showing 0xE200#64 0x18#64).rst = false ∧
    (showing 0xE200#64 0x18#64).busy = false ∧ (showing 0xE200#64 0x18#64).reqPort = none := by decide

theorem witness_ResetEdgeDiscardsTheRequest :
    ({ holding 0xE200#64 2 with rstIn := [true] } : State).rst = true ∧
    hostEdge { holding 0xE200#64 2 with rstIn := [true] } = .ok HostAgent.quiet := by decide

theorem witness_StepFaultsOnlyOnAReadWithoutResponse :
    ({ idle with host := script [.cycle none true] } : State).samples = true ∧
    ({ idle with host := script [.cycle none true] } : State).rspValidPort false = false := by decide

theorem witness_ResponseHoldsUntilAcceptOrReset :
    HandshakeInv (showing 0xE200#64 0x18#64) ∧ step (showing 0xE200#64 0x18#64) = .next (showing 0xE200#64 0x18#64) ∧
    (showing 0xE200#64 0x18#64).rspValid = true ∧ (showing 0xE200#64 0x18#64).rst = false ∧
    (showing 0xE200#64 0x18#64).reqPort = none :=
  ⟨by decide, rfl, rfl, rfl, rfl⟩

theorem witness_StepKeepsTheHandshake :
    HandshakeInv (holding 0xE200#64 1) ∧
    step (holding 0xE200#64 1) = .next { showing 0xE200#64 0x18#64 with clkLat := 1 } := ⟨by decide, rfl⟩

/-- DECODEALL waits for the word it presented, and its response has come. -/
theorem witness_StepKeepsTheHostCursorInBounds :
    HandshakeInv { showing 0x410B#64 0x4108#64 with host := running (.decodeAll [0x41#8] 0 []) .await } ∧
    HostInv { showing 0x410B#64 0x4108#64 with host := running (.decodeAll [0x41#8] 0 []) .await } ∧
    step { showing 0x410B#64 0x4108#64 with host := running (.decodeAll [0x41#8] 0 []) .await } =
      .next { showing 0x410B#64 0x4108#64 with
        host := { HostAgent.quiet with results := [.codePoints [0x41#32]] } } :=
  ⟨by decide, by decide, rfl⟩

theorem witness_ResponseDependsOnTheRequestAlone :
    (holding 0xE200#64 1).pend = ({ holding 0xE200#64 1 with rsp := 5#64, draws := 9 } : State).pend ∧
    (holding 0xE200#64 1).busy = true ∧ (holding 0xE200#64 1).clkLat = 1 ∧ (holding 0xE200#64 1).rst = false ∧
    ({ holding 0xE200#64 1 with rsp := 5#64, draws := 9 } : State).busy = true ∧
    ({ holding 0xE200#64 1 with rsp := 5#64, draws := 9 } : State).clkLat = 1 ∧
    ({ holding 0xE200#64 1 with rsp := 5#64, draws := 9 } : State).rst = false ∧
    step (holding 0xE200#64 1) = .next { showing 0xE200#64 0x18#64 with clkLat := 1 } ∧
    step { holding 0xE200#64 1 with rsp := 5#64, draws := 9 } =
      .next { showing 0xE200#64 0x18#64 with clkLat := 1, draws := 9 } :=
  ⟨rfl, rfl, rfl, rfl, rfl, rfl, rfl, rfl, rfl⟩

theorem witness_UnspecifiedRegistersAreNeverRead :
    AgreeWhereSpecified idle { idle with pend := 7#64, rsp := 9#64, clkLat := 4 } ∧
    AgreeWhereSpecified (holding 0xE200#64 1) { holding 0xE200#64 1 with rsp := 9#64 } ∧
    step (holding 0xE200#64 1) = .next { showing 0xE200#64 0x18#64 with clkLat := 1 } :=
  ⟨by decide, by decide, rfl⟩

theorem witness_ResponsesHaveOnlyLegalFields_error : rspStatus (execute 0x5#64) ≠ 0#3 := by decide

theorem witness_StatusesAreThoseOfTheOperation : (0#3).toNat ≤ 3 ∧ (3#3).toNat ≤ 3 := by decide

theorem witness_AcceptedRequestIsAnswered :
    ({ holding 0xE200#64 1 with host := running (.request 0xE200#64) .await } : State).busy = true ∧
    ({ holding 0xE200#64 1 with host := running (.request 0xE200#64) .await } : State).rspValid = false ∧
    1 ≤ ({ holding 0xE200#64 1 with host := running (.request 0xE200#64) .await } : State).clkLat ∧
    NoReset { holding 0xE200#64 1 with host := running (.request 0xE200#64) .await } ∧
    ({ holding 0xE200#64 1 with host := running (.request 0xE200#64) .await } : State).host.task =
      some ⟨.request 0xE200#64, .await⟩ := by decide

theorem witness_DecodeAllEnds : 0 < [0x41#8].length ∧ rspStatus (execute (decodeWordAt [0x41#8] 0)) = 0#3 := by decide

theorem witness_DecodeAtATruncatedTailIsTruncated :
    0 < [0xC2#8].length ∧ [0xC2#8].length - 0 < lengthOfLead ([0xC2#8].getD 0 0#8) := by decide

theorem witness_DecodeAllOfEncodeAllIsTheInput : ∀ v ∈ [0#32, 0x7FFFFFFF#32], v.toNat < 2 ^ 31 := by simp

/-- Shortest form, and overlong. -/
theorem witness_EncodeAllOfDecodeAllNeedsShortestForms :
    decodeAll [0xC2#8, 0x80#8] = some (.codePoints [0x80#32]) ∧ consumesShortest [0xC2#8, 0x80#8] 2 0 = true ∧
    decodeAll [0xC0#8, 0x80#8] = some (.codePoints [0#32]) ∧ consumesShortest [0xC0#8, 0x80#8] 2 0 = false := by decide

theorem witness_DecodeAllRunsOnTheMachine :
    NoReset { idle with host := script [.decodeAll [0x41#8]] } ∧
    ({ idle with host := script [.decodeAll [0x41#8]] } : State).host.task = none ∧
    ({ idle with host := script [.decodeAll [0x41#8]] } : State).host.script = .decodeAll [0x41#8] :: [] := by decide

theorem witness_EncodeAllRunsOnTheMachine :
    NoReset { idle with host := script [.encodeAll [0x80#32]] } ∧
    ({ idle with host := script [.encodeAll [0x80#32]] } : State).host.task = none ∧
    ({ idle with host := script [.encodeAll [0x80#32]] } : State).host.script = .encodeAll [0x80#32] :: [] := by decide

end Sys2Proof.Tests
end

section
/-! What a block edge and a step answer, one equation per kind of edge (R28, R29, R200), for a caller that knows which
edge it is. -/

namespace Sys2Proof.Machine

/-! ## The state in which the host has moved -/

@[simp] theorem State.hostMoved_busy (s : State) (h : HostAgent) : (s.hostMoved h).busy = s.busy := rfl
@[simp] theorem State.hostMoved_rspValid (s : State) (h : HostAgent) : (s.hostMoved h).rspValid = s.rspValid := rfl
@[simp] theorem State.hostMoved_rsp (s : State) (h : HostAgent) : (s.hostMoved h).rsp = s.rsp := rfl
@[simp] theorem State.hostMoved_clkLat (s : State) (h : HostAgent) : (s.hostMoved h).clkLat = s.clkLat := rfl
@[simp] theorem State.hostMoved_draws (s : State) (h : HostAgent) : (s.hostMoved h).draws = s.draws := rfl
@[simp] theorem State.hostMoved_rstIn (s : State) (h : HostAgent) : (s.hostMoved h).rstIn = s.rstIn.tail := rfl
@[simp] theorem State.hostMoved_host (s : State) (h : HostAgent) : (s.hostMoved h).host = h := rfl

@[simp] theorem State.portIn_rst (s : State) : s.portIn.rst = s.rst := rfl

/-! ## The block's edge -/

section
variable {p : PortIn} {s : State}

theorem blockEdge_of_rst (hr : p.rst = true) : blockEdge p s = .next s.resetEdge := by
  simp [blockEdge, edgeKind, hr]

theorem blockEdge_of_lastCycle (hr : p.rst = false) (hb : s.busy = true) (hl : s.clkLat ≤ 1) :
    blockEdge p s = completeEdge s := by
  simp [blockEdge, edgeKind, hr, hb, hl]

theorem blockEdge_of_waiting (hr : p.rst = false) (hb : s.busy = true) (hl : 1 < s.clkLat) :
    blockEdge p s = .next s.wait := by
  simp [blockEdge, edgeKind, hr, hb, Nat.not_le.2 hl]

theorem blockEdge_of_request (hr : p.rst = false) (hb : s.busy = false) (hv : p.reqValid = true) :
    blockEdge p s = .next (s.accept p.reqWord) := by
  simp [blockEdge, edgeKind, hr, hb, hv]

theorem blockEdge_of_noRequest (hr : p.rst = false) (hb : s.busy = false) (hv : p.reqValid = false) :
    blockEdge p s = .next s := by
  simp [blockEdge, edgeKind, hr, hb, hv]

end

/-- The block never stops the machine: it answers a next state at every edge. -/
theorem blockEdge_next (p : PortIn) (s : State) : ∃ t, blockEdge p s = .next t := by
  rcases blockEdge_cases p s with ⟨_, he⟩ | ⟨_, _, _, he⟩ | ⟨_, _, _, he⟩ | ⟨_, _, _, he⟩ | ⟨_, _, _, he⟩ <;>
    exact ⟨_, he⟩

/-! ## A step, by the edge it is -/

section
variable {s : State} {h : HostAgent} (hh : hostEdge s = .ok h) (hr : s.rst = false)
include hh hr

theorem step_of_lastCycle (hb : s.busy = true) (hl : s.clkLat ≤ 1) : step s = completeEdge (s.hostMoved h) :=
  (step_of_hostEdge hh).trans (blockEdge_of_lastCycle hr hb hl)

theorem step_of_waiting (hb : s.busy = true) (hl : 1 < s.clkLat) : step s = .next (s.hostMoved h).wait :=
  (step_of_hostEdge hh).trans (blockEdge_of_waiting hr hb hl)

theorem step_of_request {w : Word64} (hb : s.busy = false) (hw : s.reqPort = some w) :
    step s = .next ((s.hostMoved h).accept w) := by
  have hv : s.portIn.reqValid = true := by simp [State.portIn, hw]
  have hword : s.portIn.reqWord = w := by simp [State.portIn, hw]
  exact (step_of_hostEdge hh).trans (hword ▸ blockEdge_of_request hr hb hv)

theorem step_of_noRequest (hb : s.busy = false) (hw : s.reqPort = none) : step s = .next (s.hostMoved h) :=
  (step_of_hostEdge hh).trans (blockEdge_of_noRequest hr hb (by simp [State.portIn, hw]))

end

/-- A step stops exactly when the host's part of it does. -/
theorem step_fault_iff (s : State) (f : Fault) : step s = .fault f ↔ hostEdge s = .error f := by
  cases hh : hostEdge s with
  | error g => simp [step, hh]
  | ok h =>
    obtain ⟨t, ht⟩ := blockEdge_next s.portIn (s.hostMoved h)
    simp [step_of_hostEdge hh, ht]

/-! ## The host's part of a step -/

/-- A host that samples nothing goes on (R205). -/
theorem hostEdge_ok_of_not_samples {s : State} (hs : s.samples = false) : ∃ h, hostEdge s = .ok h := by
  cases hh : hostEdge s with
  | error f => simp [((hostEdge_error_iff s f).1 hh).1] at hs
  | ok h => exact ⟨h, rfl⟩

/-- A procedure that waits for `rsp_valid` does nothing else meanwhile (R160, R205). -/
theorem hostEdge_of_await {s : State} {p : Proc} (ht : s.host.task = some ⟨p, .await⟩) (hv : s.rspValid = false) :
    hostEdge s = .ok s.host := by
  simp [hostEdge, ht, State.rspValidPort, hv]

/-- After placing a word the host samples nothing at the next edge (log 7). -/
theorem State.withFetchWord_samples (s : State) (n w : Nat) : (s.withFetchWord n w).samples = false := by
  cases ht : s.host.task <;> simp [State.samples, State.withFetchWord, HostAgent.pauseOneCycle, ht]

/-! ## No reset to come -/

theorem NoReset.rst {s : State} (hn : NoReset s) : s.rst = false := by
  unfold State.rst
  cases hl : s.rstIn with
  | nil => rfl
  | cons level rest => exact hn level (by simp [hl])

theorem NoReset.tail {s t : State} (hn : NoReset s) (ht : t.rstIn = s.rstIn.tail) : NoReset t :=
  fun level hm => hn level (List.mem_of_mem_tail (ht ▸ hm))

end Sys2Proof.Machine
end

section
/-! What the edges do: the Complete step, Accept, a waiting and an idle edge, and the placing of a word. -/

namespace Sys2Proof.Machine

/-- Settles O19. -/
theorem stepRunsTheDecodedRequest : Obligations.StepRunsTheDecodedRequest := by
  intro s h i hh hr hb hl hd
  rw [step_of_lastCycle hh hr hb hl.le]
  simp [completeEdge, hd]

/-- Settles O20: the placed word is at its last cycle of latency, and the host, who samples nothing, goes on. -/
theorem placedWordRunsAtTheNextStep : Obligations.PlacedWordRunsAtTheNextStep := by
  intro s w i hw hd
  have hbits : requestOfBits 64 w = BitVec.ofNat 64 w := congrArg _ (Nat.mod_eq_of_lt hw)
  obtain ⟨h, hh⟩ := hostEdge_ok_of_not_samples (s.withFetchWord_samples 64 w)
  refine ⟨h, ?_⟩
  rw [← hbits] at hd ⊢
  exact stepRunsTheDecodedRequest _ h i hh rfl rfl rfl hd

/-- Settles O22. -/
theorem acceptEdgeTakesTheWordOnThePort : Obligations.AcceptEdgeTakesTheWordOnThePort := by
  intro s h w hh hr hb hw
  have hlat : 1 ≤ Config.latency s.draws := Nat.le_add_left 1 _
  exact ⟨_, step_of_request hh hr hb hw, rfl, rfl, rfl, hlat, rfl, rfl⟩

/-- Settles O23. -/
theorem busyBlockAcceptsNothing : Obligations.BusyBlockAcceptsNothing := by
  constructor
  · intro p s hr hb hl
    exact ⟨_, blockEdge_of_waiting hr hb hl, rfl, hb, rfl, rfl, rfl, rfl⟩
  · intro s h hh hr hb hl
    exact ⟨_, step_of_waiting hh hr hb hl, rfl, hb, rfl, rfl, rfl, rfl⟩

/-- Settles O24. -/
theorem completeEdgeWritesExecuteOfPend : Obligations.CompleteEdgeWritesExecuteOfPend := by
  constructor
  · intro p s hr hb hl
    exact (blockEdge_of_lastCycle hr hb hl.le).trans (completeEdge_eq s)
  · intro s h hh hr hb
    constructor
    · intro hl
      exact (step_of_lastCycle hh hr hb hl.le).trans (completeEdge_eq _)
    · intro hl
      exact ⟨_, step_of_waiting hh hr hb hl, hb, rfl⟩

/-- Settles O26. -/
theorem idleEdgeLeavesTheBlock : Obligations.IdleEdgeLeavesTheBlock :=
  fun _ _ hh hr hb hw => step_of_noRequest hh hr hb hw

/-- At the last cycle of latency a step shows the answer to the pending word. -/
theorem rsp_of_lastCycle {s t : State} (hstep : step s = .next t) (hr : s.rst = false) (hb : s.busy = true)
    (hl : s.clkLat ≤ 1) : t.rsp = execute s.pend ∧ t.rspValid = true := by
  obtain ⟨h, hh, -⟩ := step_cases hstep
  rw [step_of_lastCycle hh hr hb hl, completeEdge_eq] at hstep
  cases hstep
  exact ⟨rfl, rfl⟩

/-- Settles O34: both steps are Complete steps of the same pending word. -/
theorem responseDependsOnTheRequestAlone : Obligations.ResponseDependsOnTheRequestAlone := by
  intro s s' t t' hp hb hb' hl hl' hr hr' hstep hstep'
  obtain ⟨hrsp, hv⟩ := rsp_of_lastCycle hstep hr hb hl.le
  obtain ⟨hrsp', hv'⟩ := rsp_of_lastCycle hstep' hr' hb' hl'.le
  exact ⟨hrsp, by rw [hrsp, hrsp', hp], hv, hv'⟩

/-- Settles O38, by induction on the latency left: each edge but the last waits, and the last completes. -/
theorem acceptedRequestIsAnswered : Obligations.AcceptedRequestIsAnswered := by
  intro s p hb hv hl hn ht
  obtain ⟨n, hlat⟩ := Nat.exists_eq_add_of_le' hl
  rw [hlat]
  clear hl
  induction n generalizing s with
  | zero =>
    have hstep := (completeEdgeWritesExecuteOfPend.2 s s.host (hostEdge_of_await ht hv) hn.rst hb).1 hlat
    exact ⟨_, runsTo_one hstep, rfl, rfl, rfl, rfl, rfl⟩
  | succ n ih =>
    have hstep := step_of_waiting (hostEdge_of_await ht hv) hn.rst hb (by omega)
    obtain ⟨t, hrun, hdone⟩ := ih (s.hostMoved s.host).wait hb hv (hn.tail rfl) ht (by simp [hlat])
    exact ⟨t, ⟨_, hstep, hrun⟩, hdone⟩

end Sys2Proof.Machine
end

section
/-! The handshake's invariant: it holds at reset, every step keeps it, and with it a response on show stays. -/

namespace Sys2Proof.Machine

/-- Settles O28. -/
theorem resetStateIsIdle : Obligations.ResetStateIsIdle := ⟨rfl, rfl⟩

/-- Settles O32: an idle block without a response and a host without a procedure meet both invariants. -/
theorem resetMeetsTheInvariants : Obligations.ResetMeetsTheInvariants := by
  obtain ⟨hb, hv⟩ := resetStateIsIdle
  have hidle : State.reset.host.task = none := rfl
  exact ⟨⟨by simp [hb], by simp [hv]⟩, by simp [HostInv, hidle]⟩

/-- Settles O31, by the kind of edge the step is. -/
theorem stepKeepsTheHandshake : Obligations.StepKeepsTheHandshake := by
  rintro s t ⟨hbusy, hshown⟩ hstep
  obtain ⟨h, -, ⟨-, rfl⟩ | ⟨-, -, -, rfl⟩ | ⟨-, hb, hl, rfl⟩ | ⟨-, -, w, -, rfl⟩ | ⟨-, -, -, rfl⟩⟩ := step_cases hstep
  · exact ⟨by simp, by simp⟩
  · exact ⟨by simp, by simp⟩
  · obtain ⟨hv, -⟩ := hbusy hb
    have hlat : 1 ≤ s.clkLat - 1 := Nat.le_sub_one_of_lt hl
    exact ⟨by simp [hv, hlat], by simp [hv]⟩
  · exact ⟨by simp [Config.latency], by simp⟩
  · exact ⟨hbusy, hshown⟩

/-- Settles O30: under the invariant a block that shows a response is idle, so the step is an idle edge. -/
theorem responseHoldsUntilAcceptOrReset : Obligations.ResponseHoldsUntilAcceptOrReset := by
  rintro s t ⟨hbusy, -⟩ hstep hv hr hw
  have hb : s.busy = false := by
    cases hb : s.busy with
    | false => rfl
    | true => exact absurd hv (by simp [hbusy hb])
  obtain ⟨h, hh, -⟩ := step_cases hstep
  rw [step_of_noRequest hh hr hb hw] at hstep
  cases hstep
  exact ⟨hv, rfl⟩

end Sys2Proof.Machine
end

section
/-! What the spec leaves unspecified is never read: neither the host nor the block tells apart two states that agree on
the rest (R21, R30, R205). -/

namespace Sys2Proof.Machine

section
variable {s s' : State}

/-- The inputs of the block are the same in both states: they come from the host and the `rst` levels. -/
theorem portIn_congr (ha : AgreeWhereSpecified s s') : s.portIn = s'.portIn := by
  obtain ⟨hb, -, -, hr, hh, -, -⟩ := ha
  simp [State.portIn, State.rst, State.reqPort, hb, hr, hh]

/-- The host moves alike: it looks at `rsp_word` only where `rsp_valid` is 1 (R205). -/
theorem hostEdge_congr (ha : AgreeWhereSpecified s s') : hostEdge s = hostEdge s' := by
  have hrst : s.rst = s'.rst := congrArg PortIn.rst (portIn_congr ha)
  obtain ⟨hb, hv, -, -, hh, -, hrsp⟩ := ha
  have hready : s.reqReady s.rst = s'.reqReady s'.rst := by simp [State.reqReady, hb, hrst]
  have hvalid : s.rspValidPort s.rst = s'.rspValidPort s'.rst := by simp [State.rspValidPort, hv, hrst]
  have henabled : s.cycleEnabled = s'.cycleEnabled := by funext req; simp [State.cycleEnabled, hb]
  unfold hostEdge
  rw [hh, hready, hvalid, henabled]
  cases hp : s'.rspValidPort s'.rst with
  | false => simp
  | true =>
    rw [← hvalid, State.rspValidPort, Bool.and_eq_true] at hp
    simp [hrsp hp.1]

/-- The block goes on alike: it looks at PEND and CLK_LAT only while BUSY = 1, and never at RSP. -/
theorem blockEdge_congr (p : PortIn) (ha : AgreeWhereSpecified s s') :
    ∃ t t', blockEdge p s = .next t ∧ blockEdge p s' = .next t' ∧ AgreeWhereSpecified t t' := by
  obtain ⟨hb, hv, hd, hr, hh, hheld, hrsp⟩ := ha
  rcases blockEdge_cases p s with ⟨hrst, he⟩ | ⟨hrst, hbusy, hl, he⟩ | ⟨hrst, hbusy, hl, he⟩ |
    ⟨hrst, hbusy, hreq, he⟩ | ⟨hrst, hbusy, hreq, he⟩
  · exact ⟨_, _, he, blockEdge_of_rst hrst, by simp [AgreeWhereSpecified, hd, hr, hh]⟩
  · obtain ⟨hpend, hlat⟩ := hheld hbusy
    have he' := blockEdge_of_lastCycle hrst (hb ▸ hbusy) (hlat ▸ hl)
    rw [completeEdge_eq] at he'
    exact ⟨_, _, he, he', by simp [AgreeWhereSpecified, hd, hr, hh, hpend]⟩
  · obtain ⟨hpend, hlat⟩ := hheld hbusy
    exact ⟨_, _, he, blockEdge_of_waiting hrst (hb ▸ hbusy) (hlat ▸ hl),
      by simp [AgreeWhereSpecified, hb, hv, hd, hr, hh, hpend, hlat]⟩
  · exact ⟨_, _, he, blockEdge_of_request hrst (hb ▸ hbusy) hreq, by simp [AgreeWhereSpecified, hd, hr, hh]⟩
  · exact ⟨_, _, he, blockEdge_of_noRequest hrst (hb ▸ hbusy) hreq, hb, hv, hd, hr, hh, hheld, hrsp⟩

end

/-- Settles O35: the host's part of the step is the same in both states, and the block's parts agree. -/
theorem unspecifiedRegistersAreNeverRead : Obligations.UnspecifiedRegistersAreNeverRead := by
  intro s s' ha
  have hhost := hostEdge_congr ha
  constructor
  · intro f
    rw [step_fault_iff, step_fault_iff, hhost]
  · intro t hstep
    obtain ⟨h, hh, -⟩ := step_cases hstep
    have hmoved : AgreeWhereSpecified (s.hostMoved h) (s'.hostMoved h) := by
      obtain ⟨hb, hv, hd, hr, -, hheld, hrsp⟩ := ha
      exact ⟨hb, hv, hd, congrArg List.tail hr, rfl, hheld, hrsp⟩
    obtain ⟨u, t', hu, ht', hagree⟩ := blockEdge_congr s.portIn hmoved
    have hut : u = t := by rw [step_of_hostEdge hh, hu] at hstep; cases hstep; rfl
    exact ⟨t', by rw [step_of_hostEdge (hhost ▸ hh), ← portIn_congr ha, ht'], hut ▸ hagree⟩

end Sys2Proof.Machine
end

section
/-! DECODE reads the lead byte and AVAIL, and then, when AVAIL reaches the lead's length, the trailing bytes of its
sequence; no other byte (R47, R122, R123). -/

namespace Sys2Proof.Machine

/-- The masks of R100 and the byte ranges of its table give every lead byte the same length. -/
theorem seqLen_eq_lengthOfLead (b : Byte) : seqLen b = Spec.lengthOfLead b := by
  simp only [seqLen_of_range, Spec.lengthOfLead, Nat.le_iff_lt_add_one, Nat.reduceAdd]

/-- The check of the trailing bytes reads only W[1..n−1]. -/
theorem trailsValid_congr {n : Nat} {w w' : Window} (hk : ∀ k, 1 ≤ k → k < n → w.byte k = w'.byte k) :
    trailsValid n w = trailsValid n w' := by
  rw [Bool.eq_iff_iff, trailsValid_iff, trailsValid_iff]
  exact forall₃_congr fun k h1 hn => by rw [hk k h1 hn]

section
variable {avail : BitVec 3} {w w' : Window}

/-- A sequence that AVAIL cuts short is answered before any trailing byte is looked at (R123). -/
theorem decodeResponse_of_truncated (hlt : avail.toNat < seqLen w.w0) :
    decodeResponse avail w = errorResponse .truncatedSequence := by
  simp [decodeResponse, checkSequence, hlt]

/-- The checks read only the lead byte and the trailing bytes of its sequence. -/
theorem checkSequence_congr (h0 : w.w0 = w'.w0) (hk : ∀ k, 1 ≤ k → k < seqLen w.w0 → w.byte k = w'.byte k) :
    checkSequence avail w = checkSequence avail w' := by
  rw [checkSequence, checkSequence, trailsValid_congr hk, h0]

/-- The response to a DECODE reads only the lead byte and, when AVAIL reaches it, the rest of the sequence (R47). -/
theorem decodeResponse_congr (h0 : w.w0 = w'.w0)
    (hk : seqLen w.w0 ≤ avail.toNat → ∀ k, 1 ≤ k → k < seqLen w.w0 → w.byte k = w'.byte k) :
    decodeResponse avail w = decodeResponse avail w' := by
  rcases Nat.lt_or_ge avail.toNat (seqLen w.w0) with hlt | hreach
  · rw [decodeResponse_of_truncated hlt, decodeResponse_of_truncated (h0 ▸ hlt)]
  · have hbytes := hk hreach
    have hcode : assemble (seqLen w.w0) w = assemble (seqLen w.w0) w' := assemble_congr h0 hbytes
    unfold decodeResponse
    rw [← checkSequence_congr h0 hbytes]
    rcases checkSequence_cases avail w with ⟨-, he⟩ | ⟨-, -, he⟩ | ⟨-, he⟩ | ⟨-, -, -, he⟩
    · rw [he]
    · rw [he]
    · rw [he]
    · simp only [he, hcode]

end

/-- Settles O7: the two operations have the same response, and the effect is its Complete step. -/
theorem decodeReadsOnlyItsSequence : Obligations.DecodeReadsOnlyItsSequence := by
  intro avail w w' s h0 hk
  rw [← seqLen_eq_lengthOfLead] at hk
  have hresponse : response (.decode avail w) = response (.decode avail w') := decodeResponse_congr h0 hk
  rw [exec_eq, exec_eq, hresponse]

end Sys2Proof.Machine
end

section
/-! The request word: every well-formed operation has one word, the decoder reads it back, and these words are exactly
the legal ones (R60–R65). -/

namespace Sys2Proof

/-- A field of a request word is 0 when its digits of the word's number are. -/
theorem extractLsb'_eq_zero_iff (r : Word64) (start len : Nat) :
    r.extractLsb' start len = 0#len ↔ r.toNat / 2 ^ start % 2 ^ len = 0 := by
  simp [BitVec.toNat_eq, BitVec.extractLsb'_toNat, Nat.shiftRight_eq_div_pow]

/-! ## The operands of an encoded word -/

/-- A byte operation reads its operand back from lane B0. -/
theorem decodeByteOp_requestWord (op : Byte → Instr) (code : BitVec 3) (b : Byte) :
    decodeByteOp op (requestWord code 0#3 (b.setWidth 48)) = .ok (op b) := by
  have hlanes : (requestWord code 0#3 (b.setWidth 48)).extractLsb' 16 40 = 0#40 := by
    rw [extractLsb'_eq_zero_iff, requestWord_toNat, BitVec.toNat_setWidth, BitVec.toNat_zero]
    omega
  have hb : reqLane (requestWord code 0#3 (b.setWidth 48)) 0 = b := by
    apply BitVec.eq_of_toNat_eq
    simp only [reqLane_toNat, requestWord_toNat, BitVec.toNat_setWidth, BitVec.toNat_ofNat]
    omega
  simp [decodeByteOp, hlanes, hb]

/-- The window stands in the six lanes, W[k] in lane B`k` (R44). -/
theorem reqWindow_requestWord (code avail : BitVec 3) (w : Window) : reqWindow (requestWord code avail w.lanes) = w := by
  obtain ⟨w0, w1, w2, w3, w4, w5⟩ := w
  simp only [reqWindow, Window.mk.injEq]
  refine ⟨?_, ?_, ?_, ?_, ?_, ?_⟩ <;>
  · apply BitVec.eq_of_toNat_eq
    simp only [reqLane_toNat, requestWord_toNat, Window.lanes_toNat]
    omega

theorem decodeWindowOp_requestWord (code : BitVec 3) {avail : BitVec 3} (w : Window) (ha : avail ≠ 0#3) :
    decodeWindowOp (requestWord code avail w.lanes) = .ok (.decode avail w) := by
  simp [decodeWindowOp, ha, reqWindow_requestWord]

/-- ENCODE reads its operand back from lanes B3..B0 (R45). -/
theorem decodeCodePointOp_requestWord (code : BitVec 3) (v : CodePoint) :
    decodeCodePointOp (requestWord code 0#3 (v.setWidth 48)) = .ok (.encode v) := by
  have hlanes : (requestWord code 0#3 (v.setWidth 48)).extractLsb' 40 16 = 0#16 := by
    rw [extractLsb'_eq_zero_iff, requestWord_toNat, BitVec.toNat_setWidth, BitVec.toNat_zero]
    omega
  have hv : reqCodePoint (requestWord code 0#3 (v.setWidth 48)) = v := by
    apply BitVec.eq_of_toNat_eq
    simp only [reqCodePoint_toNat, requestWord_toNat, BitVec.toNat_setWidth, BitVec.toNat_ofNat]
    omega
  simp [decodeCodePointOp, hlanes, hv]

/-- Settles O15: OP selects the layout, whose operands stand where the decoder reads them. -/
theorem decodeOfEncodedRequestIsTheInstruction : Obligations.DecodeOfEncodedRequestIsTheInstruction := by
  intro i hw
  unfold encodeRequest
  cases i with
  | classify b =>
    exact (decodeRequest_classify (by simp) (by simp) (by simp)).trans (decodeByteOp_requestWord _ _ b)
  | islead b =>
    exact (decodeRequest_islead (by simp) (by simp) (by simp)).trans (decodeByteOp_requestWord _ _ b)
  | istrail b =>
    exact (decodeRequest_istrail (by simp) (by simp) (by simp)).trans (decodeByteOp_requestWord _ _ b)
  | decode avail w =>
    have ha : avail ≠ 0#3 := by simpa [Instr.wellFormed] using hw
    exact (decodeRequest_decode (by simp) (by simp) (by simp)).trans (decodeWindowOp_requestWord _ w ha)
  | encode v =>
    exact (decodeRequest_encode (by simp) (by simp) (by simp)).trans (decodeCodePointOp_requestWord _ v)

/-! ## Legal words -/

/-- `Legal(REQ)` on the fields and on the word's number are one predicate (R64): OP and the reserved fields first, then
what each layout asks for. -/
theorem legal_iff (r : Word64) : legal r = true ↔ Spec.LegalNumber r.toNat := by
  have hr := r.isLt
  simp only [legal, Spec.LegalNumber, reqOp_toNat, reqRes0, reqRes1, reqAvail, Bool.or_eq_true, bne_iff_ne, ne_eq,
    extractLsb'_eq_zero_iff]
  split_ifs with hop hres hbyte hwindow
  · simp only [false_iff]
    omega
  · simp only [false_iff]
    omega
  · simp only [Bool.and_eq_true, beq_iff_eq, extractLsb'_eq_zero_iff]
    omega
  · simp only [bne_iff_ne, ne_eq, extractLsb'_eq_zero_iff]
    omega
  · simp only [Bool.and_eq_true, beq_iff_eq, extractLsb'_eq_zero_iff]
    omega

@[simp] theorem isOk_decodeByteOp (op : Byte → Instr) (r : Word64) :
    (decodeByteOp op r).isOk = (reqAvail r == 0#3 && r.extractLsb' 16 40 == 0#40) := by
  by_cases ha : reqAvail r = 0#3 <;> by_cases hl : r.extractLsb' 16 40 = 0#40 <;>
    simp [decodeByteOp, ha, hl, Except.isOk, Except.toBool]

@[simp] theorem isOk_decodeWindowOp (r : Word64) : (decodeWindowOp r).isOk = (reqAvail r != 0#3) := by
  by_cases ha : reqAvail r = 0#3 <;> simp [decodeWindowOp, ha, Except.isOk, Except.toBool]

@[simp] theorem isOk_decodeCodePointOp (r : Word64) :
    (decodeCodePointOp r).isOk = (reqAvail r == 0#3 && r.extractLsb' 40 16 == 0#16) := by
  by_cases ha : reqAvail r = 0#3 <;> by_cases hl : r.extractLsb' 40 16 = 0#16 <;>
    simp [decodeCodePointOp, ha, hl, Except.isOk, Except.toBool]

/-- OP is reserved or selects one of the five operations (R62). -/
theorem op_cases : ∀ op : BitVec 3, 4 < op.toNat ∨ op = 0#3 ∨ op = 1#3 ∨ op = 2#3 ∨ op = 3#3 ∨ op = 4#3 := by
  decide

/-- The decoder accepts what `legal` does: each layout asks for the same zero fields in both (R63, R64). -/
theorem isOk_decodeRequest (r : Word64) : (decodeRequest r).isOk = legal r := by
  rcases op_cases (reqOp r) with hop | hop
  · have hres : decodeRequest r = .error .reservedOp := if_pos hop
    simp [hres, legal, hop, Except.isOk, Except.toBool]
  by_cases hzero : reqRes0 r = 0#2 ∧ reqRes1 r = 0#8
  · obtain ⟨h0, h1⟩ := hzero
    rcases hop with ho | ho | ho | ho | ho
    · rw [decodeRequest_classify ho h0 h1]
      simp [legal, ho, h0, h1]
    · rw [decodeRequest_islead ho h0 h1]
      simp [legal, ho, h0, h1]
    · rw [decodeRequest_istrail ho h0 h1]
      simp [legal, ho, h0, h1]
    · rw [decodeRequest_decode ho h0 h1]
      simp [legal, ho, h0, h1]
    · rw [decodeRequest_encode ho h0 h1]
      simp [legal, ho, h0, h1]
  · have hle : ¬ 4 < (reqOp r).toNat := by rcases hop with ho | ho | ho | ho | ho <;> simp [ho]
    have hnz : reqRes0 r ≠ 0#2 ∨ reqRes1 r ≠ 0#8 := not_and_or.1 hzero
    have herr : decodeRequest r = .error .reservedField := by rw [decodeRequest, if_neg hle, if_pos hnz]
    have hill : legal r = false := by rw [legal, if_neg hle, if_pos (by simpa using hnz)]
    rw [herr, hill]
    rfl

/-- A word of layout `REQ64-BYTE` whose other fields are 0 is its OP and lane B0. -/
theorem requestWord_reqLane {r : Word64} {code : BitVec 3} (h0 : r.toNat / 2 ^ 6 % 4 = 0) (h1 : r.toNat / 2 ^ 56 = 0)
    (ho : r.toNat % 8 = code.toNat) (hz : r.toNat / 8 % 8 = 0 ∧ r.toNat / 2 ^ 16 % 2 ^ 40 = 0) :
    requestWord code 0#3 ((reqLane r 0).setWidth 48) = r := by
  obtain ⟨havail, hlanes⟩ := hz
  apply BitVec.eq_of_toNat_eq
  simp only [requestWord_toNat, BitVec.toNat_setWidth, reqLane_toNat, BitVec.toNat_ofNat]
  omega

/-- Every legal word is the word of a well-formed operation, its operands read from the lanes of OP's layout. -/
theorem exists_encodeRequest_of_legal {r : Word64} (hr : Spec.LegalNumber r.toNat) :
    ∃ i : Instr, i.wellFormed = true ∧ encodeRequest i = r := by
  obtain ⟨hop, h0, h1, hbyte, hwindow, hcode⟩ := hr
  have hcases : r.toNat % 8 = 0 ∨ r.toNat % 8 = 1 ∨ r.toNat % 8 = 2 ∨ r.toNat % 8 = 3 ∨ r.toNat % 8 = 4 := by omega
  rcases hcases with ho | ho | ho | ho | ho
  · exact ⟨.classify (reqLane r 0), rfl, requestWord_reqLane h0 h1 ho (hbyte (by omega))⟩
  · exact ⟨.islead (reqLane r 0), rfl, requestWord_reqLane h0 h1 ho (hbyte (by omega))⟩
  · exact ⟨.istrail (reqLane r 0), rfl, requestWord_reqLane h0 h1 ho (hbyte (by omega))⟩
  · refine ⟨.decode (reqAvail r) (reqWindow r), ?_, ?_⟩
    · simpa [Instr.wellFormed, BitVec.toNat_eq, reqAvail_toNat] using hwindow ho
    · apply BitVec.eq_of_toNat_eq
      simp only [encodeRequest, requestWord_toNat, Window.lanes_toNat, reqWindow, reqAvail_toNat, reqLane_toNat,
        BitVec.toNat_ofNat]
      omega
  · refine ⟨.encode (reqCodePoint r), rfl, ?_⟩
    apply BitVec.eq_of_toNat_eq
    simp only [encodeRequest, requestWord_toNat, BitVec.toNat_setWidth, reqCodePoint_toNat, BitVec.toNat_ofNat]
    omega

/-- Only legal words decode to an operation. -/
theorem legal_of_decodeRequest {r : Word64} {i : Instr} (hd : decodeRequest r = .ok i) : Spec.LegalNumber r.toNat := by
  rw [← legal_iff, ← isOk_decodeRequest, hd]
  rfl

/-- The decoder and the encoder are inverse to each other on the well-formed operations and the legal words. -/
theorem decodeRequest_eq_ok_iff (r : Word64) (i : Instr) :
    decodeRequest r = .ok i ↔ i.wellFormed = true ∧ encodeRequest i = r := by
  constructor
  · intro hd
    obtain ⟨j, hw, rfl⟩ := exists_encodeRequest_of_legal (legal_of_decodeRequest hd)
    rw [decodeOfEncodedRequestIsTheInstruction j hw, Except.ok.injEq] at hd
    exact hd ▸ ⟨hw, rfl⟩
  · rintro ⟨hw, rfl⟩
    exact decodeOfEncodedRequestIsTheInstruction i hw

/-- Settles O16. -/
theorem encodeOfDecodedRequestIsTheWord : Obligations.EncodeOfDecodedRequestIsTheWord :=
  fun r i hd => ((decodeRequest_eq_ok_iff r i).1 hd).2

/-- The word of a well-formed operation is legal. -/
theorem legal_encodeRequest {i : Instr} (hw : i.wellFormed = true) : Spec.LegalNumber (encodeRequest i).toNat :=
  legal_of_decodeRequest (decodeOfEncodedRequestIsTheInstruction i hw)

/-- The decoder reads exactly the legal words (R64, R65). -/
theorem exists_decodeRequest_iff (r : Word64) : (∃ i, decodeRequest r = .ok i) ↔ Spec.LegalNumber r.toNat := by
  constructor
  · rintro ⟨i, hd⟩
    exact legal_of_decodeRequest hd
  · intro hr
    obtain ⟨i, hi⟩ := exists_encodeRequest_of_legal hr
    exact ⟨i, (decodeRequest_eq_ok_iff r i).2 hi⟩

/-- Settles O14: what the decoder reads is well-formed, and the Complete step answers whatever it finds (R65). -/
theorem legalWordsAreExactlyTheDecodedOnes : Obligations.LegalWordsAreExactlyTheDecodedOnes := by
  refine ⟨fun r => ?_, fun r => ?_, legal_iff, fun s => ⟨_, Machine.completeEdge_eq s, rfl⟩⟩
  · rw [← exists_decodeRequest_iff]
    exact exists_congr fun i => and_iff_left_of_imp fun hd => ((decodeRequest_eq_ok_iff r i).1 hd).1
  · rw [← exists_decodeRequest_iff]
    cases decodeRequest r <;> simp

/-- Settles O17: each word is the encoder's word of its operation. -/
theorem sampleWordsDecode : Obligations.SampleWordsDecode := by
  simp only [Obligations.SampleWordsDecode, decodeRequest_eq_ok_iff]
  decide

end Sys2Proof
end

section
/-! The assembler's operands are in range, so every line it accepts is a well-formed operation (R75). -/

namespace Sys2Proof.Machine

theorem asmByteOp_eq_ok {op : Byte → Instr} {operands : List Nat} {i : Instr} (h : asmByteOp op operands = .ok i) :
    ∃ b, i = op b := by
  unfold asmByteOp at h
  split at h
  · split_ifs at h
    cases h
    exact ⟨_, rfl⟩
  · cases h

/-- `<avail>` is 1..7, so it is not 0 in its three bits. -/
theorem asmDecode_wellFormed {operands : List Nat} {i : Instr} (h : asmDecode operands = .ok i) :
    i.wellFormed = true := by
  unfold asmDecode at h
  split at h
  · next avail w0 ws =>
    split_ifs at h with hlen hrange
    cases h
    have ha : avail % 8 ≠ 0 := by omega
    simpa [Instr.wellFormed, BitVec.toNat_eq] using ha
  · cases h

theorem asmEncode_eq_ok {operands : List Nat} {i : Instr} (h : asmEncode operands = .ok i) : ∃ v, i = .encode v := by
  unfold asmEncode at h
  split at h
  · split_ifs at h
    cases h
    exact ⟨_, rfl⟩
  · cases h

theorem asmOp_wellFormed {mnemonic : List Char} {operands : List Nat} {i : Instr}
    (h : asmOp mnemonic operands = .ok i) : i.wellFormed = true := by
  unfold asmOp at h
  split_ifs at h
  · obtain ⟨b, rfl⟩ := asmByteOp_eq_ok h
    rfl
  · obtain ⟨b, rfl⟩ := asmByteOp_eq_ok h
    rfl
  · obtain ⟨b, rfl⟩ := asmByteOp_eq_ok h
    rfl
  · exact asmDecode_wellFormed h
  · obtain ⟨v, rfl⟩ := asmEncode_eq_ok h
    rfl

theorem asmText_wellFormed {cs : List Char} {i : Instr} (h : asmText cs = .ok i) : i.wellFormed = true := by
  unfold asmText at h
  split at h
  · cases h
  · exact asmOp_wellFormed h

/-- An accepted line that is not blank is the word of a well-formed operation. -/
theorem assembleLine_eq_ok {line : List Char} {r : Word64} (h : assembleLine line = .ok (some r)) :
    ∃ i : Instr, i.wellFormed = true ∧ encodeRequest i = r := by
  unfold assembleLine at h
  split_ifs at h
  · cases h
  · cases ht : asmText (trim (dropComment line)) with
    | error e =>
      rw [ht] at h
      cases h
    | ok i =>
      rw [ht] at h
      cases h
      exact ⟨i, asmText_wellFormed ht, rfl⟩

/-- Settles O18. -/
theorem assembledLinesAreLegalRequests : Obligations.AssembledLinesAreLegalRequests := by
  intro line r h
  obtain ⟨i, hw, rfl⟩ := assembleLine_eq_ok h
  exact ⟨legal_encodeRequest hw, i, hw, decodeOfEncodedRequestIsTheInstruction i hw⟩

end Sys2Proof.Machine
end

section
/-! The answer to a word that is not legal, and what every operation does, as a response word in the spec's fields
(R22, R29, R63, R184). -/

namespace Sys2Proof.Machine

open Spec

/-- The response word by its fields is the spec's sum of fields (R22). -/
theorem Response.word_eq_responseWord (r : Response) :
    r.word = responseWord r.status.code.toNat r.len.toNat r.flag.toNat r.data.toNat := r.word_eq_ofNat

/-- An operation's whole effect is that its response is answered (R29, R66). -/
theorem exec_eq_answered (i : Instr) (s : State) : exec i s = .next (answered s (response i).word) := exec_eq i s

/-- Execute of a word that is not legal is ILLEGAL_REQUEST (R63, R66). -/
theorem execute_of_not_legal {r : Word64} (hr : ¬ LegalNumber r.toNat) :
    execute r = (errorResponse .illegalRequest).word := by
  unfold execute
  cases hd : decodeRequest r with
  | error e => rfl
  | ok i => exact absurd (legal_of_decodeRequest hd) hr

/-- A pending word that is not legal completes with STATUS 4 and every other field 0 (R184, R186). -/
theorem completeEdge_of_not_legal {s : State} (hs : ¬ LegalNumber s.pend.toNat) :
    completeEdge s = .next (answered s (responseWord 4 0 0 0)) := by
  have hword : execute s.pend = responseWord 4 0 0 0 :=
    (execute_of_not_legal hs).trans (Response.word_eq_responseWord _)
  rw [completeEdge_eq, hword]
  rfl

end Sys2Proof.Machine
end

section
/-! The words of the three byte operations: the words under the mask of layout `REQ64-BYTE`, and among the words with
their OP no others are legal (R60, R63). -/

namespace Sys2Proof

/-- A word under the byte mask is the word of OP and its bits 15:8. -/
theorem requestWord_of_byteMask {r : Word64} {code : BitVec 3} (hr : r &&& 0xFFFFFFFFFFFF00FF#64 = code.setWidth 64) :
    requestWord code 0#3 ((r.extractLsb' 8 8).setWidth 48) = r := by
  have hnum : r.toNat / 2 ^ 16 * 2 ^ 16 + r.toNat % 2 ^ 8 = code.toNat := by
    rw [← byteMask_toNat, hr, BitVec.toNat_setWidth_of_le (by decide)]
  exact requestWord_reqLane (by omega) (by omega) (by omega) (by omega)

/-- A legal word with the OP of a byte operation is under the byte mask. -/
theorem byteMask_of_legal {r : Word64} {code : BitVec 3} (hcode : code.toNat ≤ 2) (hop : r.toNat % 8 = code.toNat)
    (hr : Spec.LegalNumber r.toNat) : r &&& 0xFFFFFFFFFFFF00FF#64 = code.setWidth 64 := by
  obtain ⟨-, h0, h1, hbyte, -, -⟩ := hr
  rw [← requestWord_reqLane h0 h1 hop (hbyte (hop ▸ hcode))]
  exact Laws.TableRow.byteWord_masked code _

/-- Every word under the byte mask decodes to the operation whose words have its OP, on bits 15:8. -/
theorem decodeRequest_of_byteMask {op : Byte → Instr} {code : BitVec 3} (hwf : ∀ b, (op b).wellFormed = true)
    (hop : ∀ b, encodeRequest (op b) = requestWord code 0#3 (b.setWidth 48)) {r : Word64}
    (hr : r &&& 0xFFFFFFFFFFFF00FF#64 = code.setWidth 64) : decodeRequest r = .ok (op (r.extractLsb' 8 8)) :=
  (decodeRequest_eq_ok_iff r _).2 ⟨hwf _, (hop _).trans (requestWord_of_byteMask hr)⟩

/-- A pending word with the OP of a byte operation that is not under the byte mask completes with ILLEGAL_REQUEST. -/
theorem completeEdge_of_not_byteMask {s : Machine.State} {code : BitVec 3} (hcode : code.toNat ≤ 2)
    (hop : s.pend.toNat % 8 = code.toNat) (hm : s.pend &&& 0xFFFFFFFFFFFF00FF#64 ≠ code.setWidth 64) :
    Machine.completeEdge s = .next (Spec.answered s (Spec.responseWord 4 0 0 0)) :=
  Machine.completeEdge_of_not_legal fun hlegal => hm (byteMask_of_legal hcode hop hlegal)

end Sys2Proof
end

section
/-! The classifier unit: what CLASSIFY, ISLEAD and ISTRAIL answer by the byte ranges (R100–R106). -/

namespace Sys2Proof.Machine

open Spec

/-! ## The byte predicates by range -/

theorem isLead_iff (b : Byte) : isLead b = true ↔ b.toNat ≤ 0x7F ∨ (0xC0 ≤ b.toNat ∧ b.toNat ≤ 0xFD) := by
  rw [isLead, bne_iff_ne, seqLen_of_range]
  split_ifs <;> omega

theorem isTrail_iff_isTrailing (b : Byte) : isTrail b = true ↔ IsTrailing b :=
  (isTrail_iff b).trans (and_congr_right' Nat.lt_succ_iff)

/-- A FLAG bit is 1 exactly under the condition it tests. -/
theorem toNat_eq_ite {f : Bool} {p : Prop} [Decidable p] (h : f = true ↔ p) : f.toNat = if p then 1 else 0 := by
  cases f <;> simp [← h]

/-! ## The responses -/

theorem classifyResponse_word (b : Byte) : (classifyResponse b).word = responseWord 0 (lengthOfLead b) 0 0 := by
  have hlen : (BitVec.ofNat 3 (seqLen b)).toNat = lengthOfLead b := by
    rw [BitVec.toNat_ofNat, Nat.mod_eq_of_lt (Nat.lt_of_le_of_lt (seqLen_le_six b) (by decide)), seqLen_eq_lengthOfLead]
  rw [Response.word_eq_responseWord, ← hlen]
  rfl

theorem isleadResponse_word (b : Byte) : (isleadResponse b).word =
    responseWord 0 0 (if b.toNat ≤ 0x7F ∨ (0xC0 ≤ b.toNat ∧ b.toNat ≤ 0xFD) then 1 else 0) 0 := by
  rw [Response.word_eq_responseWord, ← toNat_eq_ite (isLead_iff b)]
  rfl

theorem istrailResponse_word (b : Byte) :
    (istrailResponse b).word = responseWord 0 0 (if IsTrailing b then 1 else 0) 0 := by
  rw [Response.word_eq_responseWord, ← toNat_eq_ite (isTrail_iff_isTrailing b)]
  rfl

/-! ## The operations -/

/-- Settles O1. -/
theorem classifyAnswersTheLengthTable : Obligations.ClassifyAnswersTheLengthTable := by
  refine ⟨fun r => decodeRequest_of_byteMask (code := 0#3) (fun _ => rfl) (fun _ => rfl), fun b s => ?_,
    fun s => completeEdge_of_not_byteMask (code := 0#3) (by decide)⟩
  rw [exec_eq_answered, response, classifyResponse_word]

/-- Settles O2. -/
theorem isLeadAnswersTheLeadRanges : Obligations.IsLeadAnswersTheLeadRanges := by
  refine ⟨fun r => decodeRequest_of_byteMask (code := 1#3) (fun _ => rfl) (fun _ => rfl), fun b s => ?_,
    fun s => completeEdge_of_not_byteMask (code := 1#3) (by decide)⟩
  rw [exec_eq_answered, response, isleadResponse_word]

/-- Settles O3. -/
theorem isTrailAnswersTheTrailRange : Obligations.IsTrailAnswersTheTrailRange := by
  refine ⟨fun r => decodeRequest_of_byteMask (code := 2#3) (fun _ => rfl) (fun _ => rfl), fun b s => ?_,
    fun s => completeEdge_of_not_byteMask (code := 2#3) (by decide)⟩
  rw [exec_eq_answered, response, istrailResponse_word]

/-! ## The six patterns -/

/-- A trailing byte leads no sequence. -/
theorem seqLen_of_isTrail {b : Byte} (hb : isTrail b = true) : seqLen b = 0 := by
  obtain ⟨hlo, hhi⟩ := (isTrail_iff b).1 hb
  rw [seqLen_of_range, if_neg (Nat.not_lt.2 hlo), if_pos hhi]

/-- The bytes of each length, by the ranges of R100's table. -/
def bytesOfLength : Nat → Finset Nat
  | 0 => Finset.Ico 0x80 0xC0 ∪ Finset.Ico 0xFE 0x100
  | 1 => Finset.Ico 0x00 0x80
  | 2 => Finset.Ico 0xC0 0xE0
  | 3 => Finset.Ico 0xE0 0xF0
  | 4 => Finset.Ico 0xF0 0xF8
  | 5 => Finset.Ico 0xF8 0xFC
  | 6 => Finset.Ico 0xFC 0xFE
  | _ => ∅

theorem mem_bytesOfLength {n : Nat} (hn : n ≤ 6) (b : Nat) :
    b ∈ bytesOfLength n ↔ b < 256 ∧ seqLen (BitVec.ofNat 8 b) = n := by
  have hlen := seqLen_of_range (BitVec.ofNat 8 b)
  rw [BitVec.toNat_ofNat] at hlen
  interval_cases n <;> simp only [bytesOfLength, Finset.mem_union, Finset.mem_Ico] <;> split_ifs at hlen <;> omega

theorem length_filter_seqLen {n : Nat} (hn : n ≤ 6) :
    ((List.range 256).filter fun b => seqLen (BitVec.ofNat 8 b) = n).length = (bytesOfLength n).card := by
  have hset : (Finset.range 256).filter (fun b => seqLen (BitVec.ofNat 8 b) = n) = bytesOfLength n := by
    ext b
    rw [Finset.mem_filter, Finset.mem_range, mem_bytesOfLength hn]
  rw [← hset]
  rfl

theorem card_bytesOfLength :
    [0, 1, 2, 3, 4, 5, 6].map (fun n => (bytesOfLength n).card) = [66, 128, 32, 16, 8, 4, 2] := by
  have hnone : Disjoint (Finset.Ico 0x80 0xC0) (Finset.Ico 0xFE 0x100) := by decide
  simp [bytesOfLength, Finset.card_union_of_disjoint hnone]

/-- Settles O6: the patterns by trying every byte, the counts as the sizes of R100's ranges. -/
theorem classifierPatternsAreDisjointAndCounted : Obligations.ClassifierPatternsAreDisjointAndCounted := by
  refine ⟨by decide, ?_, fun b => seqLen_of_isTrail, by decide⟩
  have hle : ∀ n ∈ [0, 1, 2, 3, 4, 5, 6], n ≤ 6 := by decide
  rw [← card_bytesOfLength]
  exact List.map_congr_left fun n hn => length_filter_seqLen (hle n hn)

end Sys2Proof.Machine
end

section
/-! The words of DECODE: the words under the mask of layout `REQ64-WINDOW` with AVAIL ≠ 0, and among the words with
OP = 011 no others are legal (R60, R63). -/

namespace Sys2Proof

/-- A word is under the window mask when OP is 011 and both reserved fields are 0. -/
theorem windowMask_eq_iff (r : Word64) : r &&& 0xFF000000000000C7#64 = 3#64 ↔
    r.toNat % 8 = 3 ∧ r.toNat / 2 ^ 6 % 4 = 0 ∧ r.toNat / 2 ^ 56 = 0 := by
  rw [BitVec.toNat_eq, windowMask_toNat, BitVec.toNat_ofNat]
  omega

/-- Every word under the window mask with AVAIL ≠ 0 decodes to DECODE of its AVAIL and its window. -/
theorem decodeRequest_of_windowMask {r : Word64} (hr : r &&& 0xFF000000000000C7#64 = 3#64)
    (ha : r.toNat / 8 % 8 ≠ 0) : decodeRequest r = .ok (.decode (reqAvail r) (reqWindow r)) := by
  obtain ⟨hop, h0, h1⟩ := (windowMask_eq_iff r).1 hr
  have havail : reqAvail r ≠ 0#3 := by simpa [BitVec.toNat_eq, reqAvail_toNat] using ha
  rw [decodeRequest_decode (BitVec.eq_of_toNat_eq ((reqOp_toNat r).trans hop))
    (BitVec.eq_of_toNat_eq ((reqRes0_toNat r).trans h0)) (BitVec.eq_of_toNat_eq ((reqRes1_toNat r).trans h1)),
    decodeWindowOp, if_neg havail]

/-- A legal word with OP = 011 is under the window mask and has AVAIL ≠ 0. -/
theorem windowMask_of_legal {r : Word64} (hop : r.toNat % 8 = 3) (hr : Spec.LegalNumber r.toNat) :
    r &&& 0xFF000000000000C7#64 = 3#64 ∧ r.toNat / 8 % 8 ≠ 0 := by
  obtain ⟨-, h0, h1, -, hwindow, -⟩ := hr
  exact ⟨(windowMask_eq_iff r).2 ⟨hop, h0, h1⟩, hwindow hop⟩

end Sys2Proof
end

section
/-! The code point that the decoder assembles is the number of the sequence's payload bits, a bit vector whose width
the length gives (R70–R72, R121, R125). -/

namespace Sys2Proof.Machine

open Spec

/-- The bits assembled from the lead of an n-byte sequence and its first `j` trailing bytes: each trailing byte is one
more digit to the base 64 (R71, R121). -/
def leadingBits (n : Nat) (w : Window) : Nat → Nat
  | 0 => w.w0.toNat % 2 ^ (7 - n)
  | j + 1 => leadingBits n w j * 64 + (w.byte (j + 1)).toNat % 64

/-- After `j` trailing bytes the accumulator holds the bits so far, above the places of those to come (R121). -/
theorem foldl_trailPart_toNat {n : Nat} (w : Window) (h2 : 2 ≤ n) (h6 : n ≤ 6) (j : Nat) (hj : j ≤ n - 1) :
    ((List.range' 1 j).foldl (fun acc k => acc ||| trailPart n w k)
      ((w.w0 &&& leadMask n).setWidth 32 <<< (6 * (n - 1)))).toNat = leadingBits n w j * 2 ^ (6 * (n - 1 - j)) := by
  induction j with
  | zero => exact leadPart_toNat n w.w0 h2 h6
  | succ j ih =>
    have hplace : 6 * (n - 1 - j) = 6 * (n - 1 - (j + 1)) + 6 := by omega
    rw [List.range'_1_concat, List.foldl_append, Nat.add_comm 1 j]
    exact toNat_or_trailPart (j + 1) (leadingBits n w j) (by omega) (hplace ▸ ih (by omega))

/-- The payload of two bytes or more is the lead's bits with one digit for each trailing byte (R72). -/
theorem payload_eq_leadingBits {n : Nat} (w : Window) (h2 : 2 ≤ n) (h6 : n ≤ 6) :
    payload w n = leadingBits n w (n - 1) := by
  interval_cases n <;> simp only [payload, toNat_append_add, BitVec.extractLsb'_toNat, Nat.shiftRight_zero] <;> rfl

/-- `Assemble(n, W)` is the payload (R72, R121). -/
theorem assemble_toNat {n : Nat} (w : Window) (h1 : 1 ≤ n) (h6 : n ≤ 6) : (assemble n w).toNat = payload w n := by
  rcases Nat.eq_or_lt_of_le h1 with rfl | h2
  · have hlow : ∀ b : Byte, ((b &&& 0x7F#8).setWidth 32).toNat = (b.extractLsb' 0 7).toNat := by decide
    exact hlow w.w0
  · rw [assemble, if_neg (by omega), trailPositions, foldl_trailPart_toNat w h2 h6 (n - 1) le_rfl, Nat.sub_self,
      ← payload_eq_leadingBits w h2 h6, Nat.mul_zero, pow_zero, Nat.mul_one]

/-- The payload of one byte has 7 bits (R70). -/
theorem payload_one_lt (w : Window) : payload w 1 < 2 ^ 7 := BitVec.isLt _

/-- The payload of n bytes, n ≥ 2, has 7 − n + 6(n − 1) = 5n + 1 bits (R72). -/
theorem payload_lt {n : Nat} (w : Window) (h2 : 2 ≤ n) (h6 : n ≤ 6) : payload w n < 2 ^ (5 * n + 1) := by
  interval_cases n <;> exact BitVec.isLt _

end Sys2Proof.Machine
end

section
/-! The decoder unit: which sequences DECODE accepts, what it answers, and what its answer depends on (R122–R129). -/

namespace Sys2Proof.Machine

open Spec

/-! ## The accepted sequences -/

/-- The sequence in the window passes the three checks of R122. -/
structure ValidSequence (avail : BitVec 3) (w : Window) : Prop where
  /-- W[0] leads a sequence. -/
  leads : 1 ≤ seqLen w.w0
  /-- AVAIL reaches its end. -/
  reached : seqLen w.w0 ≤ avail.toNat
  /-- The bytes after the lead are trailing bytes. -/
  trails : trailsValid (seqLen w.w0) w = true

section
variable {avail : BitVec 3} {w : Window}

/-- An accepted sequence is answered with its length and its code point (R122). -/
theorem ValidSequence.decodeResponse_eq (hv : ValidSequence avail w) : decodeResponse avail w =
    { status := .ok, len := BitVec.ofNat 3 (seqLen w.w0), data := (assemble (seqLen w.w0) w).setWidth 48 } := by
  rw [decodeResponse, checkSequence, if_neg (Nat.not_lt.2 hv.reached), if_neg (by simp [hv.trails]),
    if_neg (Nat.ne_of_gt hv.leads)]

/-- Everything a DECODE can answer: an error with its cause, in the normative order, or the answer to an accepted
sequence. -/
theorem decodeResponse_cases (avail : BitVec 3) (w : Window) :
    (avail.toNat < seqLen w.w0 ∧ decodeResponse avail w = errorResponse .truncatedSequence) ∨
    (seqLen w.w0 ≤ avail.toNat ∧ trailsValid (seqLen w.w0) w = false ∧
      decodeResponse avail w = errorResponse .invalidTrailByte) ∨
    (seqLen w.w0 = 0 ∧ decodeResponse avail w = errorResponse .invalidLeadByte) ∨
    ValidSequence avail w := by
  unfold decodeResponse
  rcases checkSequence_cases avail w with ⟨hlt, he⟩ | ⟨hle, ht, he⟩ | ⟨h0, he⟩ | ⟨hle, ht, h1, -⟩
  · exact .inl ⟨hlt, by rw [he]⟩
  · exact .inr (.inl ⟨hle, ht, by rw [he]⟩)
  · exact .inr (.inr (.inl ⟨h0, by rw [he]⟩))
  · exact .inr (.inr (.inr ⟨h1, hle, ht⟩))

/-- DECODE answers OK exactly to the sequences that pass the checks (R122, R126). -/
theorem decodeResponse_ok_iff : (decodeResponse avail w).status = .ok ↔ ValidSequence avail w := by
  rcases decodeResponse_cases avail w with ⟨hlt, he⟩ | ⟨-, ht, he⟩ | ⟨h0, he⟩ | hv
  · exact iff_of_false (by rw [he]; nofun) fun hv => Nat.not_lt.2 hv.reached hlt
  · exact iff_of_false (by rw [he]; nofun) fun hv => by simp [hv.trails] at ht
  · exact iff_of_false (by rw [he]; nofun) fun hv => by simpa [h0] using hv.leads
  · exact iff_of_true (by rw [hv.decodeResponse_eq]) hv

/-- An accepted sequence's LEN is its length. -/
theorem ValidSequence.len_toNat (hv : ValidSequence avail w) :
    (decodeResponse avail w).len.toNat = seqLen w.w0 := by
  have := seqLen_le_six w.w0
  rw [hv.decodeResponse_eq, BitVec.toNat_ofNat]
  omega

/-- An accepted sequence's DATA is its payload (R72, R122). -/
theorem ValidSequence.data_toNat (hv : ValidSequence avail w) :
    (decodeResponse avail w).data.toNat = payload w (seqLen w.w0) := by
  rw [hv.decodeResponse_eq, BitVec.toNat_setWidth_of_le (by decide), assemble_toNat w hv.leads (seqLen_le_six w.w0)]

/-- The code point that the host reads is the payload: DATA holds no bit above CP (R45, R122). -/
theorem ValidSequence.rspCodePoint_toNat (hv : ValidSequence avail w) :
    (rspCodePoint (decodeResponse avail w).word).toNat = payload w (seqLen w.w0) := by
  rw [rspCodePoint_eq, rspData_word, hv.decodeResponse_eq, BitVec.setWidth_setWidth_of_le _ (by decide),
    BitVec.setWidth_eq, assemble_toNat w hv.leads (seqLen_le_six w.w0)]

end

/-! ## The response word -/

/-- The search for a byte at positions 1..n−1 that is no trailing byte fails exactly when the model's check passes. -/
theorem any_not_isTrailing {n : Nat} (hn : n ≤ 6) (w : Window) :
    [1, 2, 3, 4, 5].any (fun k => k < n ∧ ¬ IsTrailing (w.byte k)) = !trailsValid n w := by
  have hpos : ∀ k, k ∈ [1, 2, 3, 4, 5] ∧ k < n ↔ 1 ≤ k ∧ k < n := fun k => by
    simp only [List.mem_cons, List.not_mem_nil, or_false]
    omega
  rw [Bool.eq_iff_iff, Bool.not_eq_true', ← Bool.not_eq_true, trailsValid_iff]
  simp only [List.any_eq_true, decide_eq_true_eq, ← and_assoc, hpos, isTrail_iff_isTrailing]
  simp only [not_forall, exists_prop, and_assoc]

/-- The answer to a DECODE in the spec's fields: the four outcomes of R122 in their order. -/
theorem decodeResponse_word (avail : BitVec 3) (w : Window) :
    (decodeResponse avail w).word = decodeAnswer avail w := by
  rw [decodeAnswer, ← seqLen_eq_lengthOfLead, any_not_isTrailing (seqLen_le_six w.w0), Response.word_eq_responseWord]
  rcases decodeResponse_cases avail w with ⟨hlt, he⟩ | ⟨hle, ht, he⟩ | ⟨h0, he⟩ | hv
  · rw [if_pos hlt, he]
    rfl
  · rw [if_neg (Nat.not_lt.2 hle), if_pos (by simp [ht]), he]
    rfl
  · rw [h0, if_neg (Nat.not_lt_zero _), if_neg (by simp [trailsValid]), if_pos rfl, he]
    rfl
  · rw [if_neg (Nat.not_lt.2 hv.reached), if_neg (by simp [hv.trails]), if_neg (Nat.ne_of_gt hv.leads), hv.len_toNat,
      hv.data_toNat, hv.decodeResponse_eq]
    rfl

/-- A DECODE's whole effect is that the block holds this answer (R29, R122). -/
theorem exec_decode (avail : BitVec 3) (w : Window) (s : State) :
    exec (.decode avail w) s = .next (answered s (decodeAnswer avail w)) := by
  rw [exec_eq_answered, response, decodeResponse_word]

/-- Settles O4. -/
theorem decodeAnswersTheCheckedSequence : Obligations.DecodeAnswersTheCheckedSequence := by
  refine ⟨fun r => decodeRequest_of_windowMask, fun avail w s _ => exec_decode avail w s, fun s hop hbad => ?_⟩
  refine completeEdge_of_not_legal fun hlegal => ?_
  obtain ⟨hmask, havail⟩ := windowMask_of_legal hop hlegal
  exact hbad.elim (absurd hmask) havail

/-! ## AVAIL past the length -/

/-- An AVAIL that reaches the length passes the first check, and no other check reads it (R129). -/
theorem checkSequence_of_reached {a a' : BitVec 3} {w : Window} (ha : seqLen w.w0 ≤ a.toNat)
    (ha' : seqLen w.w0 ≤ a'.toNat) : checkSequence a w = checkSequence a' w := by
  rw [checkSequence, checkSequence, if_neg (Nat.not_lt.2 ha), if_neg (Nat.not_lt.2 ha')]

theorem exec_decode_of_reached {a a' : BitVec 3} {w : Window} (s : State) (ha : seqLen w.w0 ≤ a.toNat)
    (ha' : seqLen w.w0 ≤ a'.toNat) : exec (.decode a w) s = exec (.decode a' w) s := by
  rw [exec_eq, exec_eq, response, response, decodeResponse, decodeResponse, checkSequence_of_reached ha ha']

/-- Settles O8: 6 and 7 reach every length. -/
theorem decodeIgnoresAvailPastTheLength : Obligations.DecodeIgnoresAvailPastTheLength := by
  refine ⟨fun a a' w s ha ha' => ?_, fun w s => ?_⟩
  · rw [← seqLen_eq_lengthOfLead] at ha ha'
    exact exec_decode_of_reached s ha ha'
  · have hsix := seqLen_le_six w.w0
    exact exec_decode_of_reached s hsix (Nat.le_succ_of_le hsix)

/-! ## The range of a decoded code point -/

/-- Settles O9: an OK answer holds the payload of an accepted sequence, which has at most 5 · 6 + 1 bits. -/
theorem decodedCodePointsAreInRange : Obligations.DecodedCodePointsAreInRange := by
  intro avail w s t hexec hok
  rw [exec_eq_answered, Host.Outcome.next.injEq] at hexec
  subst hexec
  have hv : ValidSequence avail w :=
    decodeResponse_ok_iff.1 ((Status.code_eq_zero _).1 ((rspStatus_word _).symm.trans hok))
  simp only [answered, response, rspLen_word, hv.len_toNat, hv.rspCodePoint_toNat]
  have h6 := seqLen_le_six w.w0
  rcases Nat.eq_or_lt_of_le hv.leads with h1 | h2
  · have hlt := payload_one_lt w
    rw [← h1]
    omega
  · have hlt := payload_lt w h2 h6
    have hwidth : 2 ^ (5 * seqLen w.w0 + 1) ≤ 2 ^ 31 := Nat.pow_le_pow_right (by decide) (by omega)
    exact ⟨fun h1 => by omega, fun _ => hlt, hlt.trans_le hwidth⟩

/-! ## What DECODE accepts -/

/-- Settles O10: no check looks at the code point, so overlong, surrogate, above-ceiling and 5- and 6-byte sequences
pass. -/
theorem decodeAcceptsOverlongAndExtended : Obligations.DecodeAcceptsOverlongAndExtended := by
  refine ⟨fun avail w s hlead hreach htrails => ?_, fun s => ?_⟩
  · rw [← seqLen_eq_lengthOfLead] at hlead hreach htrails ⊢
    have hv : ValidSequence avail w := ⟨Nat.pos_of_ne_zero hlead, hreach,
      (trailsValid_iff _ w).2 fun k h1 hk => (isTrail_iff_isTrailing _).2 (htrails k h1 hk)⟩
    refine ⟨_, exec_eq_answered (.decode avail w) s, ?_, ?_⟩
    · simp only [answered, response, rspStatus_word, decodeResponse_ok_iff.2 hv, Status.code]
    · simp only [answered, response, rspLen_word, hv.len_toNat]
  · simp only [exec_decode]
    exact ⟨rfl, rfl, rfl, rfl⟩

end Sys2Proof.Machine
end

section
/-! The words of ENCODE: the words under the mask of layout `REQ64-CP` are the legal ones with OP = 100, and each
decodes to ENCODE of its bits 39:8 (R60, R63). -/

namespace Sys2Proof

/-- A word is under the code point mask exactly when it is legal and its OP is 100. -/
theorem codePointMask_eq_iff (r : Word64) :
    r &&& 0xFFFFFF00000000FF#64 = 4#64 ↔ r.toNat % 8 = 4 ∧ Spec.LegalNumber r.toNat := by
  have hr := r.isLt
  rw [BitVec.toNat_eq, codePointMask_toNat, BitVec.toNat_ofNat, Spec.LegalNumber]
  omega

/-- Every word under the code point mask is ENCODE's word of its bits 39:8. -/
theorem decodeRequest_of_codePointMask {r : Word64} (hr : r &&& 0xFFFFFF00000000FF#64 = 4#64) :
    decodeRequest r = .ok (.encode (reqCodePoint r)) := by
  have hnum : r.toNat / 2 ^ 40 * 2 ^ 40 + r.toNat % 2 ^ 8 = 4 := by
    rw [← codePointMask_toNat, hr, BitVec.toNat_ofNat]
  refine (decodeRequest_eq_ok_iff r _).2 ⟨rfl, BitVec.eq_of_toNat_eq ?_⟩
  simp only [encodeRequest, requestWord_toNat, BitVec.toNat_setWidth, reqCodePoint_toNat, BitVec.toNat_ofNat]
  omega

end Sys2Proof
end

section
/-! The bytes of an encoded code point: what the decoder reads in them, the byte layout of R72, and the length that the
value needs (R140–R146). -/

namespace Sys2Proof.Machine

open Spec

/-! ## Each byte of the output -/

/-- A lead byte of two bytes or more has the pattern of its length (R141, R146). -/
theorem seqLen_leadByte {n : Nat} (v : CodePoint) (h2 : 2 ≤ n) (h6 : n ≤ 6) : seqLen (leadByte n v) = n := by
  have hb := leadByte_toNat n v h2 h6
  rw [seqLen_of_range, hb]
  interval_cases n <;> simp only [leadPrefix, BitVec.toNat_ofNat] <;> split_ifs <;> omega

/-- A lead byte of two bytes or more has the top bits of v as its payload (R70, R141). -/
theorem leadByte_mod {n : Nat} (v : CodePoint) (h2 : 2 ≤ n) (h6 : n ≤ 6) :
    (leadByte n v).toNat % 2 ^ (7 - n) = v.toNat / 2 ^ (6 * (n - 1)) % 2 ^ (7 - n) := by
  have hmark : (leadPrefix n).toNat % 2 ^ (7 - n) = 0 := by interval_cases n <;> rfl
  rw [leadByte_toNat n v h2 h6, Nat.add_mod, hmark, Nat.zero_add, Nat.mod_mod, Nat.mod_mod]

/-- The other bytes are trailing bytes (R142, R146). -/
theorem isTrail_trailByte (n : Nat) (v : CodePoint) (k : Nat) : isTrail (trailByte n v k) = true := by
  rw [isTrail_iff, trailByte_toNat]
  omega

/-- A trailing byte has six bits of v as its payload (R71, R142). -/
theorem trailByte_mod (n : Nat) (v : CodePoint) (k : Nat) :
    (trailByte n v k).toNat % 64 = v.toNat / 2 ^ (6 * (n - 1 - k)) % 64 := by
  rw [trailByte_toNat]
  omega

/-- The single byte of a short code point is the code point (R141). -/
theorem leadByte_one_toNat {v : CodePoint} (hv : v.toNat < 0x80) : (leadByte 1 v).toNat = v.toNat := by
  rw [leadByte, if_pos rfl, BitVec.toNat_setWidth]
  omega

@[simp] theorem outByte_zero (n : Nat) (v : CodePoint) : outByte n v 0 = leadByte n v := rfl

theorem outByte_of_lt {n k : Nat} (v : CodePoint) (h1 : 1 ≤ k) (hk : k < n) : outByte n v k = trailByte n v k := by
  rw [outByte, if_neg (by omega), if_pos hk]

theorem outByte_of_le {n k : Nat} (v : CodePoint) (h1 : 1 ≤ k) (hk : n ≤ k) : outByte n v k = 0x00#8 := by
  rw [outByte, if_neg (by omega), if_neg (by omega)]

/-! ## The length -/

/-- One byte is enough for 7 bits and for no more (R140). -/
theorem encLen_eq_one_iff (v : CodePoint) : encLen v = 1 ↔ v.toNat < 0x80 := by
  rw [encLen_eq]
  split_ifs <;> omega

/-- n bytes, 2 ≤ n ≤ 5, are enough for the 5n + 1 bits that their payload has, and for no more (R72, R140). -/
theorem encLen_le_iff {n : Nat} (v : CodePoint) (h2 : 2 ≤ n) (h5 : n ≤ 5) :
    encLen v ≤ n ↔ v.toNat < 2 ^ (5 * n + 1) := by
  rw [encLen_eq]
  interval_cases n <;> split_ifs <;> omega

/-- The lead byte of ENCODE's output has the pattern of its length (R146). -/
theorem seqLen_leadByte_encLen (v : CodePoint) : seqLen (leadByte (encLen v) v) = encLen v := by
  rcases Nat.eq_or_lt_of_le (encLen_pos v) with h1 | h2
  · have hv := (encLen_eq_one_iff v).1 h1.symm
    rw [← h1, seqLen_of_range, leadByte_one_toNat hv, if_pos hv]
  · exact seqLen_leadByte v h2 (encLen_le_six v)

/-! ## A window that begins with an encoded code point -/

/-- The window begins with the bytes of ENCODE(v); what stands after them is free (R147). -/
def BeginsWithEncoding (v : CodePoint) (w : Window) : Prop :=
  ∀ k, k < encLen v → w.byte k = outByte (encLen v) v k

/-- One more digit to the base 64: the digits above it and the digit itself make up x. -/
theorem div_mod_mul_add_mod (x m : Nat) : x / 2 ^ 6 % 2 ^ m * 64 + x % 64 = x % 2 ^ (m + 6) := by
  rw [pow_add, Nat.mul_comm (2 ^ m), Nat.mod_mul, Nat.add_comm, Nat.mul_comm]
  rfl

/-- The lead's payload and the first j trailing digits are the top 7 − n + 6j of the 5n + 1 bits of v. -/
theorem leadingBits_of_outBytes {n : Nat} {v : CodePoint} {w : Window} (h2 : 2 ≤ n) (h6 : n ≤ 6)
    (hw : ∀ k, k < n → w.byte k = outByte n v k) (j : Nat) (hj : j ≤ n - 1) :
    leadingBits n w j = v.toNat / 2 ^ (6 * (n - 1 - j)) % 2 ^ (7 - n + 6 * j) := by
  induction j with
  | zero =>
    have h0 : w.w0 = leadByte n v := hw 0 (by omega)
    rw [leadingBits, h0]
    exact leadByte_mod v h2 h6
  | succ j ih =>
    have hplace : 6 * (n - 1 - j) = 6 * (n - 1 - (j + 1)) + 6 := by omega
    have hdigit : w.byte (j + 1) = trailByte n v (j + 1) :=
      (hw _ (by omega)).trans (outByte_of_lt v (by omega) (by omega))
    rw [leadingBits, ih (by omega), hdigit, trailByte_mod, hplace, pow_add, ← Nat.div_div_eq_div_mul]
    exact div_mod_mul_add_mod _ _

section
variable {v : CodePoint} {w : Window} (hw : BeginsWithEncoding v w)
include hw

theorem BeginsWithEncoding.w0_eq : w.w0 = leadByte (encLen v) v := hw 0 (encLen_pos v)

theorem BeginsWithEncoding.seqLen_eq : seqLen w.w0 = encLen v := by rw [hw.w0_eq, seqLen_leadByte_encLen]

theorem BeginsWithEncoding.trailsValid : trailsValid (encLen v) w = true := by
  refine (trailsValid_iff _ w).2 fun k h1 hk => ?_
  rw [hw k hk, outByte_of_lt v h1 hk]
  exact isTrail_trailByte _ v k

/-- The encoded bytes pass the checks of DECODE as soon as AVAIL reaches them. -/
theorem BeginsWithEncoding.validSequence {avail : BitVec 3} (ha : encLen v ≤ avail.toNat) :
    ValidSequence avail w where
  leads := hw.seqLen_eq ▸ encLen_pos v
  reached := hw.seqLen_eq ▸ ha
  trails := hw.seqLen_eq ▸ hw.trailsValid

/-- The payload of the encoded bytes is v without its bit 31 (R144): up to five bytes hold all of v, and six bytes hold
its low 31 bits. -/
theorem BeginsWithEncoding.payload_eq : payload w (encLen v) = v.toNat % 2 ^ 31 := by
  have h6 := encLen_le_six v
  rcases Nat.eq_or_lt_of_le (encLen_pos v) with h1 | h2
  · have hv := (encLen_eq_one_iff v).1 h1.symm
    have hone : payload w 1 = w.w0.toNat % 2 ^ 7 := rfl
    rw [← h1, hone, hw.w0_eq, ← h1, leadByte_one_toNat hv]
    omega
  · have hwidth : 7 - encLen v + 6 * (encLen v - 1) = 5 * encLen v + 1 := by omega
    rw [payload_eq_leadingBits w h2 h6, leadingBits_of_outBytes h2 h6 hw _ le_rfl, Nat.sub_self, Nat.mul_zero, pow_zero,
      Nat.div_one, hwidth]
    rcases Nat.eq_or_lt_of_le h6 with hmax | h5
    · rw [hmax]
    · have hv := (encLen_le_iff v h2 (Nat.le_of_lt_succ h5)).1 le_rfl
      have hlt : v.toNat < 2 ^ 31 := hv.trans_le (Nat.pow_le_pow_right (by decide) (by omega))
      rw [Nat.mod_eq_of_lt hv, Nat.mod_eq_of_lt hlt]

end

/-- A sequence that DECODE accepts is at least as long as the encoding of its code point (R146). -/
theorem ValidSequence.encLen_le {avail : BitVec 3} {w : Window} (hs : ValidSequence avail w) :
    encLen (rspCodePoint (decodeResponse avail w).word) ≤ seqLen w.w0 := by
  have hcode := hs.rspCodePoint_toNat
  rcases Nat.eq_or_lt_of_le hs.leads with h1 | h2
  · rw [← h1] at hcode ⊢
    exact ((encLen_eq_one_iff _).2 (hcode ▸ payload_one_lt w)).le
  · rcases Nat.eq_or_lt_of_le (seqLen_le_six w.w0) with h6 | h5
    · exact h6 ▸ encLen_le_six _
    · exact (encLen_le_iff _ h2 (Nat.le_of_lt_succ h5)).2 (hcode ▸ payload_lt w h2 h5.le)

/-! ## The byte layout -/

/-- A marker above a field of v, as a number. -/
theorem toNat_append_extractLsb' {m : Nat} (mark : BitVec m) (v : CodePoint) (start len : Nat) :
    (mark ++ v.extractLsb' start len).toNat = mark.toNat * 2 ^ len + v.toNat / 2 ^ start % 2 ^ len := by
  rw [toNat_append_add, BitVec.extractLsb'_toNat, Nat.shiftRight_eq_div_pow]

/-- A trailing byte is the marker 10 above six bits of v (R71, R142). -/
theorem trailByte_eq_append (n : Nat) (v : CodePoint) (k : Nat) :
    trailByte n v k = 0b10#2 ++ v.extractLsb' (6 * (n - 1 - k)) 6 := by
  apply BitVec.eq_of_toNat_eq
  rw [trailByte_toNat, toNat_append_extractLsb']
  rfl

/-- The output of two bytes or more: a lead byte with the number of R141, and a marked six-bit field for each trailing
position (R70, R71). -/
theorem outBytes_eq_cons {n : Nat} {v : CodePoint} {lead : Byte} (h2 : 2 ≤ n) (h6 : n ≤ 6)
    (hlead : lead.toNat = (leadPrefix n).toNat + v.toNat / 2 ^ (6 * (n - 1)) % 2 ^ (7 - n)) :
    lead :: (trailPositions n).map (fun k => 0b10#2 ++ v.extractLsb' (6 * (n - 1 - k)) 6) =
      (List.range n).map (outByte n v) := by
  obtain ⟨m, rfl⟩ : ∃ m, n = m + 1 := ⟨n - 1, by omega⟩
  have hhead : lead = leadByte (m + 1) v := BitVec.eq_of_toNat_eq (hlead.trans (leadByte_toNat _ v h2 h6).symm)
  rw [hhead, List.range_eq_range', List.range'_succ, List.map_cons, outByte_zero]
  refine congrArg _ (List.map_congr_left fun k hk => ?_)
  obtain ⟨h1, hlt⟩ := (mem_trailPositions _ k).1 hk
  rw [outByte_of_lt v h1 hlt, trailByte_eq_append]

/-- The layout of R72 has the bytes that the encoder's formulas give, as many as R140 says. -/
theorem bytesOf_eq (v : CodePoint) : bytesOf v = (List.range (encLen v)).map (outByte (encLen v) v) := by
  rw [encLen_eq, bytesOf]
  split_ifs with h1
  · have hlead : (0b0#1 ++ v.extractLsb' 0 7 : Byte) = leadByte 1 v := by
      apply BitVec.eq_of_toNat_eq
      rw [leadByte_one_toNat h1, toNat_append_extractLsb' 0b0#1]
      simp only [BitVec.toNat_ofNat]
      omega
    rw [hlead]
    rfl
  · exact outBytes_eq_cons (n := 2) (by decide) (by decide) (toNat_append_extractLsb' 0b110#3 v 6 5)
  · exact outBytes_eq_cons (n := 3) (by decide) (by decide) (toNat_append_extractLsb' 0b1110#4 v 12 4)
  · exact outBytes_eq_cons (n := 4) (by decide) (by decide) (toNat_append_extractLsb' 0b11110#5 v 18 3)
  · exact outBytes_eq_cons (n := 5) (by decide) (by decide) (toNat_append_extractLsb' 0b111110#6 v 24 2)
  · exact outBytes_eq_cons (n := 6) (by decide) (by decide) (toNat_append_extractLsb' 0b1111110#7 v 30 1)

theorem length_bytesOf (v : CodePoint) : (bytesOf v).length = encLen v := by simp [bytesOf_eq]

/-- DATA has the output bytes in its lanes, and zero lanes above them (R44, R143): the six lanes written out for each
length. -/
theorem encodeData_toNat {n : Nat} (v : CodePoint) (h1 : 1 ≤ n) (h6 : n ≤ 6) :
    (encodeData n v).toNat = lanes ((List.range n).map (outByte n v)) := by
  simp only [encodeData, toNat_append_add]
  interval_cases n <;> simp [List.range_succ, lanes, outByte] <;> omega

end Sys2Proof.Machine
end

section
/-! The encoder unit: what ENCODE answers, that its bytes are the shortest form of the code point, and that DECODE reads
them back (R143–R148). -/

namespace Sys2Proof.Machine

open Spec

/-! ## The response -/

theorem encodeResponse_len_toNat (v : CodePoint) : (encodeResponse v).len.toNat = encLen v := by
  have h6 := encLen_le_six v
  rw [encodeResponse, BitVec.toNat_ofNat]
  omega

/-- The host reads OUT[k] in lane k (R44, R143). -/
theorem rspOut_encodeResponse (v : CodePoint) {k : Nat} (hk : k < 6) :
    rspOut (encodeResponse v).word k = outByte (encLen v) v k := by
  rw [rspOut_eq _ k hk, rspData_word, encodeResponse, encodeData_lane _ v k hk]

theorem encodeResponse_word (v : CodePoint) :
    (encodeResponse v).word = responseWord 0 (bytesOf v).length 0 (lanes (bytesOf v)) := by
  rw [Response.word_eq_responseWord, encodeResponse_len_toNat, length_bytesOf, bytesOf_eq,
    ← encodeData_toNat v (encLen_pos v) (encLen_le_six v)]
  rfl

/-- An ENCODE's whole effect is that the block holds the bytes of the layout (R29, R143). -/
theorem exec_encode (v : CodePoint) (s : State) :
    exec (.encode v) s = .next (answered s (responseWord 0 (bytesOf v).length 0 (lanes (bytesOf v)))) := by
  rw [exec_eq_answered, response, encodeResponse_word]

/-- What an operation leaves is its response, answered. -/
theorem eq_answered_of_exec {i : Instr} {s t : State} (h : exec i s = .next t) :
    t = answered s (response i).word := by
  rw [exec_eq_answered] at h
  cases h
  rfl

@[simp] theorem answered_rsp (s : State) (rsp : Word64) : (answered s rsp).rsp = rsp := rfl

/-- A DECODE's STATUS is 0 exactly for an accepted sequence. -/
theorem rspStatus_decodeResponse_iff (avail : BitVec 3) (w : Window) :
    rspStatus (decodeResponse avail w).word = 0#3 ↔ ValidSequence avail w := by
  rw [rspStatus_word, Status.code_eq_zero, decodeResponse_ok_iff]

/-! ## The operation -/

/-- Settles O5. -/
theorem encodeAnswersTheByteLayout : Obligations.EncodeAnswersTheByteLayout := by
  refine ⟨fun r => decodeRequest_of_codePointMask, exec_encode, fun s hop hbad => ?_⟩
  exact completeEdge_of_not_legal fun hlegal => hbad ((codePointMask_eq_iff _).2 ⟨hop, hlegal⟩)

/-- Settles O11: a DECODE that answers OK with code point v read a sequence with room for v. -/
theorem encodedBytesAreTheShortestForm : Obligations.EncodedBytesAreTheShortestForm := by
  intro v s t hexec
  obtain rfl := eq_answered_of_exec hexec
  have h6 := encLen_le_six v
  simp only [answered_rsp, response, rspLen_word, encodeResponse_len_toNat]
  refine ⟨?_, fun k h1 hk => ?_, fun _ avail w s' t' hdecode hok hcode => ?_⟩
  · rw [rspOut_encodeResponse v (by decide), outByte_zero, ← seqLen_eq_lengthOfLead, seqLen_leadByte_encLen]
  · rw [rspOut_encodeResponse v (by omega), outByte_of_lt v h1 hk, ← isTrail_iff_isTrailing]
    exact isTrail_trailByte _ v k
  · obtain rfl := eq_answered_of_exec hdecode
    simp only [answered_rsp, response] at hok hcode ⊢
    have hs := (rspStatus_decodeResponse_iff avail w).1 hok
    rw [rspLen_word, hs.len_toNat, ← hcode]
    exact hs.encLen_le

/-- Settles O12: the encoded bytes pass the checks, and their payload is v without its bit 31. -/
theorem encodeThenDecodeReturnsTheCodePoint : Obligations.EncodeThenDecodeReturnsTheCodePoint := by
  intro v s t avail w s' hexec hbytes hreach
  obtain rfl := eq_answered_of_exec hexec
  have h6 := encLen_le_six v
  simp only [answered_rsp, response, rspLen_word, encodeResponse_len_toNat] at hbytes hreach
  have hw : BeginsWithEncoding v w := fun k hk => (hbytes k hk).trans (rspOut_encodeResponse v (by omega))
  have hs := hw.validSequence hreach
  have hcode : (rspCodePoint (decodeResponse avail w).word).toNat = v.toNat % 2 ^ 31 := by
    rw [hs.rspCodePoint_toNat, hw.seqLen_eq, hw.payload_eq]
  refine ⟨_, exec_eq_answered (.decode avail w) s', (rspStatus_decodeResponse_iff avail w).2 hs, ?_, fun hlt => ?_,
    fun _ => ?_⟩
  · apply BitVec.eq_of_toNat_eq
    simp only [answered_rsp, response, rspLen_word, hs.len_toNat, hw.seqLen_eq, encodeResponse_len_toNat]
  · exact BitVec.eq_of_toNat_eq (hcode.trans (Nat.mod_eq_of_lt hlt))
  · have hmask : (v &&& 0x7FFFFFFF#32).toNat = v.toNat % 2 ^ 31 := Nat.and_two_pow_sub_one_eq_mod v.toNat 31
    exact BitVec.eq_of_toNat_eq (hcode.trans hmask.symm)

/-! ## The five thresholds -/

/-- Where no threshold is crossed, v and v − 1 stand on the same side of each of R140's comparisons. -/
theorem encLen_sub_one {v : CodePoint} (hv : v.toNat ∉ [0, 0x80, 0x800, 0x10000, 0x200000, 0x4000000]) :
    encLen (v - 1#32) = encLen v := by
  simp only [List.mem_cons, List.not_mem_nil, or_false, not_or] at hv
  obtain ⟨h0, hv⟩ := hv
  have hpred : (v - 1#32).toNat = v.toNat - 1 := by bv_omega
  have hside : ∀ t, v.toNat ≠ t → (v.toNat - 1 < t ↔ v.toNat < t) := fun t ht => by omega
  simp only [encLen_eq, hpred, hside, hv, ne_eq, not_false_eq_true]

/-- Settles O13: the thresholds and the rule's rows are evaluated, and elsewhere no comparison of R140 changes. -/
theorem encodeLengthBoundaries : Obligations.EncodeLengthBoundaries := by
  refine ⟨fun v hv => ?_, fun v hv => ?_, fun s => ?_⟩
  · have hat : ∀ t ∈ [0x80, 0x800, 0x10000, 0x200000, 0x4000000],
        encLen (BitVec.ofNat 32 t) = encLen (BitVec.ofNat 32 t - 1#32) + 1 := by decide
    simp only [response, encodeResponse_len_toNat]
    simpa only [BitVec.ofNat_toNat, BitVec.setWidth_eq] using hat v.toNat hv
  · exact congrArg (BitVec.ofNat 3) (encLen_sub_one hv).symm
  · simp only [exec_encode]
    exact ⟨rfl, rfl, rfl, rfl, rfl, rfl, rfl, rfl, rfl, rfl⟩

end Sys2Proof.Machine
end

section
/-! The host's procedures as functions (R160–R168): one request of ENCODEALL, one request of DECODEALL, and the run of
DECODEALL's loop as a chain of requests. -/

namespace Sys2Proof.Machine

open Spec

/-- The block answers the word of a well-formed operation with its response (R27, R66). -/
theorem execute_encodeRequest {i : Instr} (hw : i.wellFormed = true) : execute (encodeRequest i) = (response i).word := by
  rw [execute, decodeOfEncodedRequestIsTheInstruction i hw]

/-! ## ENCODEALL -/

/-- One ENCODE appends the bytes of the layout (R165). -/
theorem encodeBytes_eq (v : CodePoint) : encodeBytes v = bytesOf v := by
  have h6 := encLen_le_six v
  rw [encodeBytes, encodeWordOf, execute_encodeRequest rfl, response, rspOutBytes, rspLen_word,
    encodeResponse_len_toNat, bytesOf_eq]
  refine List.map_congr_left fun k hk => rspOut_encodeResponse v ?_
  exact (List.mem_range.1 hk).trans_le h6

@[simp] theorem encodeAll_nil : encodeAll [] = [] := rfl

@[simp] theorem encodeAll_cons (v : CodePoint) (cps : List CodePoint) :
    encodeAll (v :: cps) = bytesOf v ++ encodeAll cps := by
  rw [encodeAll, List.flatMap_cons, encodeBytes_eq, encodeAll]

/-- Settles O41. -/
theorem encodeAllLengthIsTheSum : Obligations.EncodeAllLengthIsTheSum := by
  intro cps
  simp only [encodeAll, List.length_flatMap, encodeBytes_eq]

/-! ## The request at DECODEALL's cursor -/

/-- The response to DECODEALL's request at the cursor is OK (R161). -/
abbrev AcceptsAt (buf : List Byte) (pos : Nat) : Prop := rspStatus (execute (decodeWordAt buf pos)) = 0#3

/-- How far that response moves the cursor (R161). -/
abbrev lenAt (buf : List Byte) (pos : Nat) : Nat := (rspLen (execute (decodeWordAt buf pos))).toNat

/-- The code point of that response (R161). -/
abbrev codeAt (buf : List Byte) (pos : Nat) : CodePoint := rspCodePoint (execute (decodeWordAt buf pos))

section
variable {buf : List Byte} {pos : Nat}

/-- AVAIL is the number of bytes remaining, saturated (R69, R161). -/
theorem availAt_toNat (buf : List Byte) (pos : Nat) : (availAt buf pos).toNat = min (buf.length - pos) 7 := by
  rw [availAt, Config.availMax, BitVec.toNat_ofNat]
  omega

/-- `A ≤ L − pos` (R163). -/
theorem availAt_le (buf : List Byte) (pos : Nat) : (availAt buf pos).toNat ≤ buf.length - pos := by
  rw [availAt_toNat]
  exact Nat.min_le_left _ _

/-- AVAIL reaches a length exactly when the buffer does, since no length is above 6. -/
theorem le_availAt_iff {n : Nat} (h6 : n ≤ 6) : n ≤ (availAt buf pos).toNat ↔ n ≤ buf.length - pos := by
  rw [availAt_toNat]
  omega

theorem windowAt_byte (buf : List Byte) (pos : Nat) {k : Nat} (hk : k < 6) :
    (windowAt buf pos).byte k = buf.getD (pos + k) 0#8 := by
  interval_cases k <;> rfl

/-- Before the end of the buffer DECODEALL's word is a legal DECODE of the window at the cursor (R63, R161). -/
theorem execute_decodeWordAt (hpos : pos < buf.length) :
    execute (decodeWordAt buf pos) = (decodeResponse (availAt buf pos) (windowAt buf pos)).word := by
  refine execute_encodeRequest (i := .decode (availAt buf pos) (windowAt buf pos)) (bne_iff_ne.2 fun h0 => ?_)
  have havail := availAt_toNat buf pos
  rw [h0, BitVec.toNat_zero] at havail
  omega

/-- DECODEALL goes on exactly when the sequence at the cursor passes the checks (R161, R162). -/
theorem acceptsAt_iff (hpos : pos < buf.length) :
    AcceptsAt buf pos ↔ ValidSequence (availAt buf pos) (windowAt buf pos) := by
  rw [AcceptsAt, execute_decodeWordAt hpos, rspStatus_decodeResponse_iff]

/-- An OK response's LEN is the length that the byte at the cursor declares. -/
theorem lenAt_eq (hpos : pos < buf.length) (hok : AcceptsAt buf pos) :
    lenAt buf pos = seqLen (windowAt buf pos).w0 := by
  rw [lenAt, execute_decodeWordAt hpos, rspLen_word, ((acceptsAt_iff hpos).1 hok).len_toNat]

/-- `1 ≤ LEN ≤ A` (R163). -/
theorem lenAt_bounds (hpos : pos < buf.length) (hok : AcceptsAt buf pos) :
    1 ≤ lenAt buf pos ∧ lenAt buf pos ≤ (availAt buf pos).toNat := by
  obtain ⟨hleads, hreached, -⟩ := (acceptsAt_iff hpos).1 hok
  rw [lenAt_eq hpos hok]
  exact ⟨hleads, hreached⟩

/-- An OK response leaves the cursor in the buffer (R42, R163). -/
theorem cursor_le_length (hpos : pos < buf.length) (hok : AcceptsAt buf pos) :
    pos + lenAt buf pos ≤ buf.length := by
  have hlen := (lenAt_bounds hpos hok).2
  have havail := availAt_le buf pos
  omega

/-- Settles O40: AVAIL is the bytes that remain, so the first check of DECODE fails. -/
theorem decodeAtATruncatedTailIsTruncated : Obligations.DecodeAtATruncatedTailIsTruncated := by
  intro buf pos hpos hshort
  have hlead : seqLen (windowAt buf pos).w0 = lengthOfLead (buf.getD pos 0#8) := seqLen_eq_lengthOfLead _
  have hlt : (availAt buf pos).toNat < seqLen (windowAt buf pos).w0 :=
    hlead ▸ (availAt_le buf pos).trans_lt hshort
  rw [execute_decodeWordAt hpos, decodeResponse_of_truncated hlt]
  rfl

end

/-! ## DECODEALL, one request at a time -/

section
variable {buf : List Byte} {pos : Nat} (fuel : Nat) (out : List CodePoint)

@[simp] theorem decodeFrom_atEnd (buf : List Byte) :
    decodeFrom buf fuel buf.length out = some (.codePoints out) := by
  cases fuel <;> simp [decodeFrom]

/-- At the first error DECODEALL returns it with its cursor (R161, R162). -/
theorem decodeFrom_of_error (hpos : pos < buf.length) (herr : ¬ AcceptsAt buf pos) :
    decodeFrom buf (fuel + 1) pos out =
      some (.decodeError (rspStatus (execute (decodeWordAt buf pos))) pos) := by
  rw [decodeFrom, if_neg hpos.ne]
  exact if_pos herr

/-- After an OK response DECODEALL goes on behind the sequence, its code point appended (R161). -/
theorem decodeFrom_of_ok (hpos : pos < buf.length) (hok : AcceptsAt buf pos) :
    decodeFrom buf (fuel + 1) pos out =
      decodeFrom buf fuel (pos + lenAt buf pos) (out ++ [codeAt buf pos]) := by
  rw [decodeFrom, if_neg hpos.ne]
  exact if_neg (not_not.2 hok)

end

/-- The requests DECODEALL makes from `pos` on, of which `fuel` are enough: the case analysis and the induction of every
claim about the loop (R161). -/
inductive DecodeRun (buf : List Byte) : Nat → Nat → Prop
  /-- The cursor is at the end of the buffer. -/
  | atEnd (fuel : Nat) : DecodeRun buf fuel buf.length
  /-- The response at the cursor is an error. -/
  | error (fuel : Nat) {pos : Nat} (hpos : pos < buf.length) (herr : ¬ AcceptsAt buf pos) : DecodeRun buf (fuel + 1) pos
  /-- The response at the cursor is OK, and the run goes on behind the sequence. -/
  | ok {fuel pos : Nat} (hpos : pos < buf.length) (hok : AcceptsAt buf pos)
      (hrest : DecodeRun buf fuel (pos + lenAt buf pos)) : DecodeRun buf (fuel + 1) pos

/-- As many requests as bytes remain are enough, since every OK response consumes a byte (R163). -/
theorem decodeRun_of_le {buf : List Byte} {fuel pos : Nat} (hle : pos ≤ buf.length) (hfuel : buf.length - pos ≤ fuel) :
    DecodeRun buf fuel pos := by
  induction fuel generalizing pos with
  | zero =>
    obtain rfl : pos = buf.length := by omega
    exact .atEnd 0
  | succ fuel ih =>
    rcases Nat.eq_or_lt_of_le hle with rfl | hpos
    · exact .atEnd _
    by_cases hok : AcceptsAt buf pos
    · have hadvance := (lenAt_bounds hpos hok).1
      exact .ok hpos hok (ih (cursor_le_length hpos hok) (by omega))
    · exact .error fuel hpos hok

theorem decodeRun_start (buf : List Byte) : DecodeRun buf buf.length 0 :=
  decodeRun_of_le (Nat.zero_le _) (Nat.sub_le _ _)

/-- A run of the loop returns. -/
theorem DecodeRun.exists_result {buf : List Byte} {fuel pos : Nat} (hrun : DecodeRun buf fuel pos)
    (out : List CodePoint) : ∃ r, decodeFrom buf fuel pos out = some r := by
  induction hrun generalizing out with
  | atEnd fuel => exact ⟨_, decodeFrom_atEnd fuel out buf⟩
  | error fuel hpos herr => exact ⟨_, decodeFrom_of_error fuel out hpos herr⟩
  | ok hpos hok _ ih =>
    rw [decodeFrom_of_ok _ out hpos hok]
    exact ih _

/-- Settles O39. -/
theorem decodeAllEnds : Obligations.DecodeAllEnds := by
  refine ⟨fun buf pos hpos hok => ?_, fun buf => (decodeRun_start buf).exists_result [], rfl⟩
  obtain ⟨hpositive, hreached⟩ := lenAt_bounds hpos hok
  exact ⟨hpositive, hreached, availAt_le buf pos⟩

end Sys2Proof.Machine
end

section
/-! The two procedures against each other: DECODEALL reads back what ENCODEALL wrote, and ENCODEALL writes back what
DECODEALL read when every sequence is in shortest form (R167, R168). -/

namespace Sys2Proof.Machine

open Spec

/-! ## An accepted sequence of the shortest length -/

/-- The bits of an assembled number above its last `d` digits (R71, R72). -/
theorem leadingBits_div (n : Nat) (w : Window) (j d : Nat) :
    leadingBits n w (j + d) / 2 ^ (6 * d) = leadingBits n w j := by
  induction d with
  | zero => simp
  | succ d ih =>
    have hplace : 2 ^ (6 * (d + 1)) = 64 * 2 ^ (6 * d) := by ring
    rw [← ih, ← Nat.add_assoc, leadingBits, hplace, ← Nat.div_div_eq_div_mul]
    congr 1
    omega

/-- The payload's bits from the place of byte `k` on. -/
theorem payload_div {n k : Nat} (w : Window) (h2 : 2 ≤ n) (h6 : n ≤ 6) (hk : k < n) :
    payload w n / 2 ^ (6 * (n - 1 - k)) = leadingBits n w k := by
  have hsplit : n - 1 = k + (n - 1 - k) := by omega
  rw [payload_eq_leadingBits w h2 h6]
  conv_lhs => rw [hsplit]
  rw [Nat.add_sub_cancel_left, leadingBits_div]

theorem seqLen_eq_one_iff : ∀ b : Byte, seqLen b = 1 ↔ b.toNat < 0x80 := by decide

/-- A lead byte is the marker of its length above its payload bits (R70, R100). -/
theorem lead_toNat {n : Nat} {b : Byte} (hb : seqLen b = n) (h2 : 2 ≤ n) :
    b.toNat = (leadPrefix n).toNat + b.toNat % 2 ^ (7 - n) := by
  have hall : ∀ b : Byte, 2 ≤ seqLen b →
      b.toNat = (leadPrefix (seqLen b)).toNat + b.toNat % 2 ^ (7 - seqLen b) := by decide
  exact hb ▸ hall b (hb ▸ h2)

/-- A trailing byte is the marker 10 above its payload bits (R71, R102). -/
theorem trail_toNat {b : Byte} (hb : isTrail b = true) : b.toNat = 0x80 + b.toNat % 64 := by
  have := (isTrail_iff b).1 hb
  omega

section
variable {avail : BitVec 3} {w : Window} {v : CodePoint}

/-- The bytes of a sequence with valid lead and trailing bytes are those that the encoder makes of its payload in the
sequence's own length (R141, R142). -/
theorem ValidSequence.byte_eq_outByte (hs : ValidSequence avail w) (hv : v.toNat = payload w (seqLen w.w0)) {k : Nat}
    (hk : k < seqLen w.w0) : w.byte k = outByte (seqLen w.w0) v k := by
  have h6 := seqLen_le_six w.w0
  rcases Nat.eq_or_lt_of_le hs.leads with h1 | h2
  · rw [← h1] at hk hv ⊢
    obtain rfl : k = 0 := by omega
    have hw0 : w.w0.toNat < 0x80 := (seqLen_eq_one_iff _).1 h1.symm
    have hlow : payload w 1 = w.w0.toNat % 2 ^ 7 := rfl
    apply BitVec.eq_of_toNat_eq
    rw [outByte_zero, leadByte_one_toNat (by omega)]
    exact (hv.trans (hlow.trans (Nat.mod_eq_of_lt hw0))).symm
  · have hbits := payload_div w h2 h6 hk
    apply BitVec.eq_of_toNat_eq
    cases k with
    | zero =>
      rw [outByte_zero, leadByte_toNat _ v h2 h6, hv]
      rw [Nat.sub_zero] at hbits
      rw [hbits, leadingBits, Nat.mod_mod]
      exact lead_toNat rfl h2
    | succ k =>
      rw [outByte_of_lt v (Nat.succ_pos k) hk, trailByte_toNat, hv, hbits, leadingBits, Nat.mul_add_mod', Nat.mod_mod]
      exact trail_toNat ((trailsValid_iff _ w).1 hs.trails _ (Nat.succ_pos k) hk)

/-- An accepted sequence that is as short as the encoding of its code point is that encoding (R168). -/
theorem ValidSequence.beginsWithEncoding (hs : ValidSequence avail w)
    (hshort : seqLen w.w0 = encLen (rspCodePoint (decodeResponse avail w).word)) :
    BeginsWithEncoding (rspCodePoint (decodeResponse avail w).word) w := by
  intro k hk
  rw [← hshort] at hk ⊢
  exact hs.byte_eq_outByte hs.rspCodePoint_toNat hk

/-- The code point that DECODE reads in an encoding is the encoded one, below 2^31 (R147). -/
theorem BeginsWithEncoding.rspCodePoint_eq (hw : BeginsWithEncoding v w) (ha : encLen v ≤ avail.toNat)
    (hv : v.toNat < 2 ^ 31) : rspCodePoint (decodeResponse avail w).word = v := by
  apply BitVec.eq_of_toNat_eq
  rw [(hw.validSequence ha).rspCodePoint_toNat, hw.seqLen_eq, hw.payload_eq, Nat.mod_eq_of_lt hv]

end

/-! ## An encoding in the buffer -/

section
variable {buf : List Byte} {pos : Nat} {v : CodePoint}

/-- The next bytes of the buffer, where it has them, are those of the window (R42). -/
theorem take_drop_eq_window {n : Nat} (h6 : n ≤ 6) (hn : n ≤ buf.length - pos) :
    (buf.drop pos).take n = (List.range n).map (windowAt buf pos).byte := by
  apply List.ext_getElem
  · simp [hn]
  · intro k hk hk'
    have hkn : k < n := by simpa using hk'
    simp [windowAt_byte buf pos (hkn.trans_le h6), show pos + k < buf.length by omega]

/-- The buffer goes on with the bytes of v exactly when the window at the cursor begins with them. -/
theorem bytesOf_prefix_drop_iff (hfits : encLen v ≤ buf.length - pos) :
    bytesOf v <+: buf.drop pos ↔ BeginsWithEncoding v (windowAt buf pos) := by
  rw [List.prefix_iff_eq_take, length_bytesOf, take_drop_eq_window (encLen_le_six v) hfits, bytesOf_eq, List.map_inj_left]
  simp only [List.mem_range, BeginsWithEncoding, eq_comm]

end

/-! ## DECODEALL of ENCODEALL -/

/-- At an encoding in the buffer the response is OK, with the length of the encoding and the encoded code point. -/
theorem acceptsAt_of_encoding {buf : List Byte} {pos : Nat} {v : CodePoint}
    (henc : bytesOf v <+: buf.drop pos) (hv : v.toNat < 2 ^ 31) :
    AcceptsAt buf pos ∧ lenAt buf pos = (bytesOf v).length ∧ codeAt buf pos = v := by
  have hfits : encLen v ≤ buf.length - pos := by
    rw [← length_bytesOf, ← List.length_drop]
    exact henc.length_le
  have hpos : pos < buf.length := by
    have := encLen_pos v
    omega
  have hw := (bytesOf_prefix_drop_iff hfits).1 henc
  have hreach := (le_availAt_iff (encLen_le_six v)).2 hfits
  have hok := (acceptsAt_iff hpos).2 (hw.validSequence hreach)
  refine ⟨hok, ?_, ?_⟩
  · rw [lenAt_eq hpos hok, hw.seqLen_eq, length_bytesOf]
  · rw [codeAt, execute_decodeWordAt hpos, hw.rspCodePoint_eq hreach hv]

/-- DECODEALL reads the code points that stand encoded in the rest of its buffer. -/
theorem decodeFrom_of_drop_eq_encodeAll {buf : List Byte} {cps : List CodePoint} (hcps : ∀ v ∈ cps, v.toNat < 2 ^ 31)
    {fuel pos : Nat} (hle : pos ≤ buf.length) (hfuel : buf.length - pos ≤ fuel)
    (hrest : buf.drop pos = encodeAll cps) (out : List CodePoint) :
    decodeFrom buf fuel pos out = some (.codePoints (out ++ cps)) := by
  induction cps generalizing fuel pos out with
  | nil =>
    obtain rfl : pos = buf.length := hle.antisymm (List.drop_eq_nil_iff.1 hrest)
    rw [decodeFrom_atEnd, List.append_nil]
  | cons v cps ih =>
    rw [encodeAll_cons] at hrest
    obtain ⟨hv, hcps⟩ := List.forall_mem_cons.1 hcps
    obtain ⟨hok, hlen, hcode⟩ := acceptsAt_of_encoding (hrest ▸ List.prefix_append _ _) hv
    have htotal : buf.length - pos = (bytesOf v).length + (encodeAll cps).length := by
      rw [← List.length_drop, hrest, List.length_append]
    have hpositive : 1 ≤ (bytesOf v).length := length_bytesOf v ▸ encLen_pos v
    obtain ⟨fuel, rfl⟩ : ∃ m, fuel = m + 1 := ⟨fuel - 1, by omega⟩
    rw [decodeFrom_of_ok fuel out (by omega) hok, hlen, hcode, List.append_cons out v cps]
    refine ih hcps (by omega) (by omega) ?_ _
    rw [← List.drop_drop, hrest, List.drop_left]

/-- Settles O42: the whole buffer is the encoding of the whole list. -/
theorem decodeAllOfEncodeAllIsTheInput : Obligations.DecodeAllOfEncodeAllIsTheInput := by
  intro cps hcps
  exact decodeFrom_of_drop_eq_encodeAll hcps (Nat.zero_le _) (Nat.sub_le _ _) (List.drop_zero ..) []

/-! ## ENCODEALL of DECODEALL -/

section
variable {buf : List Byte} {pos : Nat} (fuel : Nat)

@[simp] theorem consumesShortest_atEnd (buf : List Byte) : consumesShortest buf fuel buf.length = true := by
  cases fuel <;> simp [consumesShortest]

theorem consumesShortest_of_ok (hpos : pos < buf.length) (hok : AcceptsAt buf pos) :
    consumesShortest buf (fuel + 1) pos =
      (lenAt buf pos == (bytesOf (codeAt buf pos)).length &&
        consumesShortest buf fuel (pos + lenAt buf pos)) := by
  simp [consumesShortest, hpos.ne, hok]

end

/-- A consumed sequence is the encoding of its code point, or it is longer than that (R168). -/
theorem encoding_or_overlong {buf : List Byte} {pos : Nat} (hpos : pos < buf.length) (hok : AcceptsAt buf pos) :
    (lenAt buf pos = (bytesOf (codeAt buf pos)).length ∧ bytesOf (codeAt buf pos) <+: buf.drop pos) ∨
    (bytesOf (codeAt buf pos)).length < lenAt buf pos := by
  have hs := (acceptsAt_iff hpos).1 hok
  rw [length_bytesOf, lenAt_eq hpos hok, codeAt, execute_decodeWordAt hpos]
  rcases Nat.eq_or_lt_of_le hs.encLen_le with hshort | hlong
  · have hfits := hshort ▸ (le_availAt_iff (seqLen_le_six _)).1 hs.reached
    exact .inl ⟨hshort.symm, (bytesOf_prefix_drop_iff hfits).2 (hs.beginsWithEncoding hshort.symm)⟩
  · exact .inr hlong

/-- ENCODEALL of the code points read from `pos` on is the rest of the buffer when all sequences are in shortest form,
and shorter than it otherwise (R168). -/
theorem DecodeRun.encodeAll_of_codePoints {buf : List Byte} {fuel pos : Nat} (hrun : DecodeRun buf fuel pos)
    {out cps : List CodePoint} (hcps : decodeFrom buf fuel pos out = some (.codePoints cps)) :
    ∃ tail, cps = out ++ tail ∧
      (consumesShortest buf fuel pos = true → encodeAll tail = buf.drop pos) ∧
      (consumesShortest buf fuel pos = false → (encodeAll tail).length < buf.length - pos) := by
  induction hrun generalizing out with
  | atEnd fuel =>
    rw [decodeFrom_atEnd, Option.some.injEq, HostResult.codePoints.injEq] at hcps
    exact ⟨[], by simp [hcps], by simp, by simp⟩
  | error fuel hpos herr =>
    rw [decodeFrom_of_error fuel out hpos herr] at hcps
    cases hcps
  | @ok fuel pos hpos hok _ ih =>
    rw [decodeFrom_of_ok fuel out hpos hok] at hcps
    obtain ⟨tail, rfl, hshortest, hlonger⟩ := ih hcps
    have hin := cursor_le_length hpos hok
    rw [consumesShortest_of_ok fuel hpos hok]
    refine ⟨_ :: tail, (List.append_cons ..).symm, ?_⟩
    rw [encodeAll_cons, List.length_append]
    rcases encoding_or_overlong hpos hok with ⟨hlen, henc⟩ | hlong
    · have hsplit := List.prefix_append_drop henc
      rw [hlen] at hin hshortest hlonger ⊢
      rw [List.drop_drop] at hsplit
      rw [beq_self_eq_true, Bool.true_and]
      exact ⟨fun h => by rw [hshortest h, ← hsplit], fun h => by have := hlonger h; omega⟩
    · have hle : (encodeAll tail).length ≤ buf.length - (pos + lenAt buf pos) := by
        cases hc : consumesShortest buf fuel (pos + lenAt buf pos) with
        | true => rw [hshortest hc, List.length_drop]
        | false => exact (hlonger hc).le
      rw [beq_false_of_ne hlong.ne', Bool.false_and]
      exact ⟨nofun, fun _ => by omega⟩

/-- Settles O43: a buffer is not shorter than itself, so one with a longer form is not given back. -/
theorem encodeAllOfDecodeAllNeedsShortestForms : Obligations.EncodeAllOfDecodeAllNeedsShortestForms := by
  intro buf cps hcps
  obtain ⟨_, rfl, hshortest, hlonger⟩ := (decodeRun_start buf).encodeAll_of_codePoints hcps
  refine ⟨⟨fun heq => ?_, hshortest⟩, hlonger⟩
  by_contra hne
  exact absurd (hlonger (Bool.eq_false_of_not_eq_true hne)) (by rw [heq]; exact lt_irrefl _)

end Sys2Proof.Machine
end

section
/-! Every step keeps the host's side of the invariant: what the host can do at an edge, and what each of it leaves of the
running procedure (R160–R163). -/

namespace Sys2Proof.Machine

/-! ## What the host does at an edge -/

/-- The procedures start with their loops (R160, R161, R165). -/
inductive Starts (h : HostAgent) : HostAgent → Prop
  | request (w : Word64) (rest : List HostAction) : Starts h ({ h with script := rest }.present (.request w))
  | decodeAll (buf : List Byte) (rest : List HostAction) : Starts h ({ h with script := rest }.decodeLoop buf 0 [])
  | encodeAll (cps : List CodePoint) (rest : List HostAction) : Starts h ({ h with script := rest }.encodeLoop cps [])

/-- Everything the host can do at an edge: a request is accepted, a response is read, a procedure starts, or what runs
goes on as before. -/
theorem hostEdge_cases {s : State} {h : HostAgent} (hh : hostEdge s = .ok h) :
    (∃ p, s.host.task = some ⟨p, .present⟩ ∧ s.reqReady s.rst = true ∧
      h = { s.host with task := some ⟨p, .await⟩ }) ∨
    (∃ p, s.host.task = some ⟨p, .await⟩ ∧ s.rspValidPort s.rst = true ∧ h = s.host.absorb p s.rsp) ∨
    Starts s.host h ∨
    h.task = s.host.task := by
  unfold hostEdge at hh
  split at hh
  · next p ht =>
    split_ifs at hh with hready <;> cases hh
    · exact .inl ⟨p, ht, hready, rfl⟩
    · exact .inr (.inr (.inr rfl))
  · next p ht =>
    split_ifs at hh with hvalid <;> cases hh
    · exact .inr (.inl ⟨p, ht, hvalid, rfl⟩)
    · exact .inr (.inr (.inr rfl))
  · split at hh
    · cases hh
      exact .inr (.inr (.inr rfl))
    · split_ifs at hh <;> cases hh <;> exact .inr (.inr (.inr rfl))
    · cases hh
      exact .inr (.inr (.inl (.request _ _)))
    · cases hh
      exact .inr (.inr (.inl (.decodeAll _ _)))
    · cases hh
      exact .inr (.inr (.inl (.encodeAll _ _)))

/-- The host's part of a step is its host after it, and the `rst` levels move on. -/
theorem step_host {s t : State} {h : HostAgent} (hh : hostEdge s = .ok h) (hstep : step s = .next t) :
    t.host = h ∧ t.rstIn = s.rstIn.tail := by
  obtain ⟨h', hh', hcase⟩ := step_cases hstep
  obtain rfl : h = h' := Except.ok.inj (hh.symm.trans hh')
  obtain ⟨-, rfl⟩ | ⟨-, -, -, rfl⟩ | ⟨-, -, -, rfl⟩ | ⟨-, -, w, -, rfl⟩ | ⟨-, -, -, rfl⟩ := hcase <;> exact ⟨rfl, rfl⟩

/-! ## The procedure that goes on -/

/-- The host runs nothing, or a procedure whose next request is in bounds, whatever the block holds. -/
abbrev HostAgent.Fresh (h : HostAgent) : Prop := ∀ s : State, h.task.all (Task.good s) = true

section
variable {h : HostAgent}

theorem finish_fresh (r : HostResult) : (h.finish r).Fresh := fun _ => rfl

theorem present_fresh {p : Proc} (hp : p.inBounds = true) : (h.present p).Fresh := fun _ => hp

/-- DECODEALL's loop makes a request only before the end of the buffer. -/
theorem decodeLoop_fresh {buf : List Byte} {pos : Nat} (out : List CodePoint) (hle : pos ≤ buf.length) :
    (h.decodeLoop buf pos out).Fresh := by
  unfold HostAgent.decodeLoop
  split_ifs with hend
  · exact finish_fresh _
  · exact present_fresh (decide_eq_true (Nat.lt_of_le_of_ne hle hend))

theorem encodeLoop_fresh (cps : List CodePoint) (out : List Byte) : (h.encodeLoop cps out).Fresh := by
  cases cps with
  | nil => exact finish_fresh _
  | cons v rest => exact present_fresh rfl

theorem Starts.fresh {h' : HostAgent} (hs : Starts h h') : h'.Fresh := by
  cases hs with
  | request w rest => exact present_fresh rfl
  | decodeAll buf rest => exact decodeLoop_fresh [] (Nat.zero_le _)
  | encodeAll cps rest => exact encodeLoop_fresh cps []

/-- The answer to its own request leaves a procedure in bounds: an OK response of DECODEALL does not reach past the
buffer (R163). -/
theorem absorb_fresh {p : Proc} (hp : p.inBounds = true) : (h.absorb p (execute p.word)).Fresh := by
  cases p with
  | request w => exact finish_fresh _
  | decodeAll buf pos out =>
    unfold HostAgent.absorb
    split_ifs with herr
    · exact finish_fresh _
    · exact decodeLoop_fresh _ (cursor_le_length (of_decide_eq_true hp) (not_not.1 herr))
  | encodeAll v rest out => exact encodeLoop_fresh rest _

end

/-! ## The invariant, by what the host runs -/

section
variable {s t : State} {p : Proc}

theorem hostInv_of_idle (ht : s.host.task = none) : HostInv s := by rw [HostInv, ht]; rfl

theorem hostInv_present_iff (ht : s.host.task = some ⟨p, .present⟩) : HostInv s ↔ p.inBounds = true := by
  rw [HostInv, ht]
  rfl

theorem hostInv_await_iff (ht : s.host.task = some ⟨p, .await⟩) :
    HostInv s ↔ p.inBounds = true ∧ (s.busy = true ∨ s.rspValid = true → s.pend = p.word) := by
  rw [HostInv, ht]
  simp [Task.good, imp_iff_not_or]

/-- A step that leaves the task alone keeps the invariant: only an Accept edge changes PEND while a request is held or
answered, and a procedure that waits presents nothing. -/
theorem hostInv_of_task_eq (hgood : HostInv s) (hstep : step s = .next t) (ht : t.host.task = s.host.task) :
    HostInv t := by
  cases htask : s.host.task with
  | none => exact hostInv_of_idle (ht.trans htask)
  | some task =>
    obtain ⟨p, _ | _⟩ := task
    · exact (hostInv_present_iff (ht.trans htask)).2 ((hostInv_present_iff htask).1 hgood)
    · obtain ⟨hin, hheld⟩ := (hostInv_await_iff htask).1 hgood
      have hport : s.reqPort = none := by simp [State.reqPort, HostAgent.nextWord, htask]
      rw [hostInv_await_iff (ht.trans htask)]
      obtain ⟨h, -, ⟨-, rfl⟩ | ⟨-, hb, -, rfl⟩ | ⟨-, hb, -, rfl⟩ | ⟨-, -, w, hw, -⟩ | ⟨-, -, -, rfl⟩⟩ :=
        step_cases hstep
      · exact ⟨hin, by simp⟩
      · exact ⟨hin, fun _ => hheld (.inl hb)⟩
      · exact ⟨hin, fun _ => hheld (.inl hb)⟩
      · cases hport.symm.trans hw
      · exact ⟨hin, hheld⟩

/-- The edge at which a procedure sees `req_ready` accepts its word (R204). -/
theorem pend_of_accepted (ht : s.host.task = some ⟨p, .present⟩) (hready : s.reqReady s.rst = true)
    (hstep : step s = .next t) : t.pend = p.word := by
  obtain ⟨hb, hr⟩ : s.busy = false ∧ s.rst = false := by simpa [State.reqReady] using hready
  have hport : s.reqPort = some p.word := by rw [State.reqPort_of_idle hb, HostAgent.nextWord, ht]
  obtain ⟨h, hh, -⟩ := step_cases hstep
  rw [step_of_request hh hr hb hport] at hstep
  cases hstep
  rfl

end

/-- Settles O33, by what the host does at the edge. -/
theorem stepKeepsTheHostCursorInBounds : Obligations.StepKeepsTheHostCursorInBounds := by
  rintro s t ⟨-, hshown⟩ hgood hstep
  obtain ⟨h, hh, -⟩ := step_cases hstep
  obtain ⟨hhost, -⟩ := step_host hh hstep
  rcases hostEdge_cases hh with ⟨p, htask, hready, rfl⟩ | ⟨p, htask, hvalid, rfl⟩ | hstarts | hsame
  · rw [hostInv_await_iff (p := p) (by rw [hhost])]
    exact ⟨(hostInv_present_iff htask).1 hgood, fun _ => pend_of_accepted htask hready hstep⟩
  · obtain ⟨hin, hheld⟩ := (hostInv_await_iff htask).1 hgood
    have hv : s.rspValid = true := (Bool.and_eq_true_iff.1 hvalid).1
    rw [HostInv, hhost, hshown hv, hheld (.inr hv)]
    exact absorb_fresh hin t
  · rw [HostInv, hhost]
    exact hstarts.fresh t
  · exact hostInv_of_task_eq hgood hstep (hhost ▸ hsame)

end Sys2Proof.Machine
end

section
/-! The host's procedures through the ports: one request presented, accepted, answered and read, and DECODEALL and
ENCODEALL as chains of such requests, with any latencies (R160–R166). -/

namespace Sys2Proof.Machine

/-! ## Runs without a reset -/

/-- A host that goes on takes the machine to a next state. -/
theorem exists_step_of_hostEdge {s : State} {h : HostAgent} (hh : hostEdge s = .ok h) :
    ∃ t, step s = .next t ∧ t.host = h ∧ t.rstIn = s.rstIn.tail := by
  obtain ⟨t, ht⟩ := blockEdge_next s.portIn (s.hostMoved h)
  have hstep : step s = .next t := (step_of_hostEdge hh).trans ht
  exact ⟨t, hstep, step_host hh hstep⟩

theorem NoReset.runsTo {k : Nat} {s t : State} (hn : NoReset s) (hrun : RunsTo k s t) : NoReset t := by
  induction k generalizing s with
  | zero => exact hrun ▸ hn
  | succ k ih =>
    obtain ⟨u, hstep, hrest⟩ := hrun
    obtain ⟨h, hh, -⟩ := step_cases hstep
    exact ih (hn.tail (step_host hh hstep).2) hrest

/-! ## One request -/

section
variable {s : State} {p : Proc}

/-- A procedure holds its word while the block is busy (R204). -/
theorem hostEdge_of_present_busy (ht : s.host.task = some ⟨p, .present⟩) (hb : s.busy = true) :
    hostEdge s = .ok s.host := by
  simp [hostEdge, ht, State.reqReady, hb]

/-- A procedure whose word is accepted waits for its response (R205). -/
theorem hostEdge_of_accepted (ht : s.host.task = some ⟨p, .present⟩) (hr : s.rst = false) (hb : s.busy = false) :
    hostEdge s = .ok { s.host with task := some ⟨p, .await⟩ } := by
  simp [hostEdge, ht, State.reqReady, hr, hb]

/-- A procedure that sees its response reads it (R160, R206). -/
theorem hostEdge_of_answered (ht : s.host.task = some ⟨p, .await⟩) (hr : s.rst = false) (hv : s.rspValid = true) :
    hostEdge s = .ok (s.host.absorb p s.rsp) := by
  simp [hostEdge, ht, State.rspValidPort, hr, hv]

/-- A request of someone else that the block still holds completes, and the procedure goes on holding its word: by
induction on the latency left. -/
theorem runsTo_idle_of_present (hn : NoReset s) (ht : s.host.task = some ⟨p, .present⟩) :
    ∃ k t, RunsTo k s t ∧ t.busy = false ∧ t.host = s.host := by
  cases hb : s.busy with
  | false => exact ⟨0, s, rfl, hb, rfl⟩
  | true =>
    induction hlat : s.clkLat using Nat.strong_induction_on generalizing s with
    | _ n ih =>
      have hheld := hostEdge_of_present_busy ht hb
      rcases Nat.lt_or_ge 1 s.clkLat with hl | hl
      · obtain ⟨k, t, hrun, hidle, hhost⟩ :=
          ih (s.clkLat - 1) (by omega) (s := (s.hostMoved s.host).wait) (hn.tail rfl) ht hb rfl
        exact ⟨k + 1, t, ⟨_, step_of_waiting hheld hn.rst hb hl, hrun⟩, hidle, hhost⟩
      · have hstep := (step_of_lastCycle hheld hn.rst hb hl).trans (completeEdge_eq _)
        exact ⟨1, _, runsTo_one hstep, rfl, rfl⟩

/-- What a procedure does with a response does not depend on the phase its request was in. -/
theorem absorb_withTask (h : HostAgent) (task : Option Task) (p : Proc) (rsp : Word64) :
    ({ h with task := task } : HostAgent).absorb p rsp = h.absorb p rsp := by
  cases p with
  | request w => rfl
  | decodeAll buf pos out => rfl
  | encodeAll v rest out => cases rest <;> rfl

/-- A procedure's request is accepted, answered and read, and the answer is `Execute` of its word (R27, R160). -/
theorem runsTo_absorb {h : HostAgent} (hn : NoReset s) (hs : s.host = h.present p) :
    ∃ k t, RunsTo k s t ∧ NoReset t ∧ t.host = h.absorb p (execute p.word) := by
  obtain ⟨i, a, hrunA, hbA, hhostA⟩ := runsTo_idle_of_present (p := p) hn (by rw [hs]; rfl)
  have hnA := hn.runsTo hrunA
  have htA : a.host.task = some ⟨p, .present⟩ := by rw [hhostA, hs]; rfl
  have hport : a.reqPort = some p.word := by rw [State.reqPort_of_idle hbA, HostAgent.nextWord, htA]
  obtain ⟨b, hstepB, hpendB, hbB, hvB, hlB, hrstB, hhostB⟩ :=
    acceptEdgeTakesTheWordOnThePort a _ _ (hostEdge_of_accepted htA hnA.rst hbA) hnA.rst hbA hport
  have hnB := hnA.tail hrstB
  obtain ⟨c, hrunC, hvC, hrspC, -, -, hhostC⟩ := acceptedRequestIsAnswered b p hbB hvB hlB hnB (by rw [hhostB])
  have hnC := hnB.runsTo hrunC
  obtain ⟨d, hstepD, hhostD, hrstD⟩ :=
    exists_step_of_hostEdge (hostEdge_of_answered (p := p) (by rw [hhostC, hhostB]) hnC.rst hvC)
  refine ⟨_, d, runsTo_add hrunA (runsTo_add (runsTo_one hstepB) (runsTo_add hrunC (runsTo_one hstepD))),
    hnC.tail hrstD, ?_⟩
  rw [hhostD, hhostC, hhostB, hrspC, hpendB, absorb_withTask, hhostA, hs, HostAgent.present, absorb_withTask]

end

/-! ## DECODEALL -/

section
variable {buf : List Byte} {pos : Nat} (h : HostAgent) (out : List CodePoint)

theorem decodeLoop_atEnd (buf : List Byte) : h.decodeLoop buf buf.length out = h.finish (.codePoints out) := if_pos rfl

theorem decodeLoop_of_lt (hpos : pos < buf.length) :
    h.decodeLoop buf pos out = h.present (.decodeAll buf pos out) := if_neg hpos.ne

theorem absorb_decodeAll_of_error (herr : ¬ AcceptsAt buf pos) :
    h.absorb (.decodeAll buf pos out) (execute (decodeWordAt buf pos)) =
      h.finish (.decodeError (rspStatus (execute (decodeWordAt buf pos))) pos) := if_pos herr

theorem absorb_decodeAll_of_ok (hok : AcceptsAt buf pos) :
    h.absorb (.decodeAll buf pos out) (execute (decodeWordAt buf pos)) =
      h.decodeLoop buf (pos + lenAt buf pos) (out ++ [codeAt buf pos]) := if_neg (not_not.2 hok)

end

/-- From the head of its loop DECODEALL runs to its end and returns what the function does. -/
theorem DecodeRun.runsTo {buf : List Byte} {fuel pos : Nat} (hrun : DecodeRun buf fuel pos) {s : State}
    {h : HostAgent} {out : List CodePoint} (hn : NoReset s) (hs : s.host = h.decodeLoop buf pos out) :
    ∃ k t r, RunsTo k s t ∧ decodeFrom buf fuel pos out = some r ∧ t.host = h.finish r := by
  induction hrun generalizing s out with
  | atEnd fuel => exact ⟨0, s, _, rfl, decodeFrom_atEnd fuel out buf, hs.trans (decodeLoop_atEnd h out buf)⟩
  | error fuel hpos herr =>
    obtain ⟨k, t, hrun, -, ht⟩ := runsTo_absorb hn (hs.trans (decodeLoop_of_lt h out hpos))
    exact ⟨k, t, _, hrun, decodeFrom_of_error fuel out hpos herr, ht.trans (absorb_decodeAll_of_error h out herr)⟩
  | ok hpos hok _ ih =>
    obtain ⟨k, t, hrun, hnt, ht⟩ := runsTo_absorb hn (hs.trans (decodeLoop_of_lt h out hpos))
    obtain ⟨j, u, r, hrest, hr, hu⟩ := ih hnt (ht.trans (absorb_decodeAll_of_ok h out hok))
    exact ⟨_, u, r, runsTo_add hrun hrest, (decodeFrom_of_ok _ out hpos hok).trans hr, hu⟩

/-- Settles O44: the first edge brings the host to the head of the loop, whatever the block does in it. -/
theorem decodeAllRunsOnTheMachine : Obligations.DecodeAllRunsOnTheMachine := by
  intro s buf rest hn htask hscript
  have hh : hostEdge s = .ok (({ s.host with script := rest } : HostAgent).decodeLoop buf 0 []) := by
    simp [hostEdge, htask, hscript]
  obtain ⟨t, hstep, hhost, hrst⟩ := exists_step_of_hostEdge hh
  obtain ⟨k, u, r, hrun, hr, hu⟩ := (decodeRun_start buf).runsTo (hn.tail hrst) hhost
  refine ⟨_, u, r, runsTo_add (runsTo_one hstep) hrun, hr, ?_⟩
  rw [hu, HostAgent.finish, ← htask]

/-! ## ENCODEALL -/

/-- From the head of its loop ENCODEALL runs to its end and appends the bytes of the code points left. -/
theorem encodeLoop_runsTo {cps : List CodePoint} {s : State} {h : HostAgent} {out : List Byte} (hn : NoReset s)
    (hs : s.host = h.encodeLoop cps out) :
    ∃ k t, RunsTo k s t ∧ t.host = h.finish (.bytes (out ++ encodeAll cps)) := by
  induction cps generalizing s out with
  | nil =>
    refine ⟨0, s, rfl, ?_⟩
    rw [encodeAll_nil, List.append_nil]
    exact hs
  | cons v rest ih =>
    obtain ⟨k, t, hrun, hnt, ht⟩ := runsTo_absorb (p := .encodeAll v rest out) hn hs
    have hnext : t.host = h.encodeLoop rest (out ++ encodeBytes v) := ht
    obtain ⟨j, u, hrest, hu⟩ := ih hnt hnext
    refine ⟨_, u, runsTo_add hrun hrest, ?_⟩
    rw [hu, encodeBytes_eq, encodeAll_cons, List.append_assoc]

/-- Settles O45, from the first edge on as for DECODEALL. -/
theorem encodeAllRunsOnTheMachine : Obligations.EncodeAllRunsOnTheMachine := by
  intro s cps rest hn htask hscript
  have hh : hostEdge s = .ok (({ s.host with script := rest } : HostAgent).encodeLoop cps []) := by
    simp [hostEdge, htask, hscript]
  obtain ⟨t, hstep, hhost, hrst⟩ := exists_step_of_hostEdge hh
  obtain ⟨k, u, hrun, hu⟩ := encodeLoop_runsTo (hn.tail hrst) hhost
  refine ⟨_, u, runsTo_add (runsTo_one hstep) hrun, ?_⟩
  rw [hu, HostAgent.finish, ← htask]
  rfl

end Sys2Proof.Machine
end

section
/-! The error responses: an illegal request completes with ILLEGAL_REQUEST, every response holds legal fields, and which
operation answers which STATUS (R180–R187). -/

namespace Sys2Proof.Machine

open Spec

/-- Settles O21: the edge is the Complete edge of a pending word that is not legal. -/
theorem stepAnswersAnIllegalRequest : Obligations.StepAnswersAnIllegalRequest := by
  intro s h hh hr hb hl hs
  exact (step_of_lastCycle hh hr hb hl.le).trans (completeEdge_of_not_legal (s := s.hostMoved h) hs)

/-- Everything Execute can answer: the response of a legal word's operation, or ILLEGAL_REQUEST (R66, R187). -/
theorem execute_cases (r : Word64) :
    (LegalNumber r.toNat ∧ ∃ i, execute r = (response i).word) ∨
    (¬ LegalNumber r.toNat ∧ execute r = (errorResponse .illegalRequest).word) := by
  by_cases hr : LegalNumber r.toNat
  · obtain ⟨i, hw, rfl⟩ := exists_encodeRequest_of_legal hr
    exact .inl ⟨hr, i, execute_encodeRequest hw⟩
  · exact .inr ⟨hr, execute_of_not_legal hr⟩

/-! ## The fields of a response -/

/-- A response that R22 and R186 allow. -/
structure Response.Legal (r : Response) : Prop where
  /-- LEN is the length of a sequence, or 0. -/
  len_le : r.len.toNat ≤ 6
  /-- An error holds its STATUS alone. -/
  eq_error : r.status ≠ .ok → r = errorResponse r.status

theorem errorResponse_legal (e : Status) : (errorResponse e).Legal := ⟨Nat.zero_le 6, fun _ => rfl⟩

theorem Response.legal_of_ok {r : Response} (hok : r.status = .ok) (hlen : r.len.toNat ≤ 6) : r.Legal :=
  ⟨hlen, fun herr => absurd hok herr⟩

theorem classifyResponse_len_le (b : Byte) : (classifyResponse b).len.toNat ≤ 6 :=
  (Nat.mod_le _ _).trans (seqLen_le_six b)

theorem decodeResponse_legal (avail : BitVec 3) (w : Window) : (decodeResponse avail w).Legal := by
  rcases decodeResponse_cases avail w with ⟨-, he⟩ | ⟨-, -, he⟩ | ⟨-, he⟩ | hv
  · exact he ▸ errorResponse_legal _
  · exact he ▸ errorResponse_legal _
  · exact he ▸ errorResponse_legal _
  · exact Response.legal_of_ok (decodeResponse_ok_iff.2 hv) (hv.len_toNat ▸ seqLen_le_six w.w0)

theorem response_legal (i : Instr) : (response i).Legal := by
  cases i with
  | classify b => exact Response.legal_of_ok rfl (classifyResponse_len_le b)
  | islead b => exact Response.legal_of_ok rfl (Nat.zero_le 6)
  | istrail b => exact Response.legal_of_ok rfl (Nat.zero_le 6)
  | decode avail w => exact decodeResponse_legal avail w
  | encode v => exact Response.legal_of_ok rfl (encodeResponse_len_toNat v ▸ encLen_le_six v)

/-- Execute answers the word of a legal response. -/
theorem exists_legal_response (r : Word64) : ∃ x : Response, x.Legal ∧ execute r = x.word := by
  rcases execute_cases r with ⟨-, i, he⟩ | ⟨-, he⟩
  · exact ⟨_, response_legal i, he⟩
  · exact ⟨_, errorResponse_legal _, he⟩

/-- Settles O36: the word of a legal response has legal fields. -/
theorem responsesHaveOnlyLegalFields : Obligations.ResponsesHaveOnlyLegalFields := by
  intro r
  obtain ⟨x, hx, he⟩ := exists_legal_response r
  obtain ⟨hres0, hres1⟩ := x.word_reserved
  rw [he, rspStatus_word, rspLen_word, rspFlag_word, rspData_word]
  refine ⟨x.status.code_le, hx.len_le, hres0, hres1, fun hne => ?_⟩
  have herr : x = errorResponse x.status := hx.eq_error fun hok => hne ((Status.code_eq_zero _).2 hok)
  rw [herr]
  exact ⟨rfl, rfl, rfl⟩

/-! ## The STATUS of each operation -/

theorem Status.code_eq_four (e : Status) : e.code = 4#3 ↔ e = .illegalRequest := by cases e <;> decide

theorem Status.code_le_three (e : Status) : e.code.toNat ≤ 3 ↔ e ≠ .illegalRequest := by cases e <;> decide

/-- DECODE's own errors are the three of its checks (R122). -/
theorem decodeResponse_status_ne (avail : BitVec 3) (w : Window) :
    (decodeResponse avail w).status ≠ .illegalRequest := by
  rcases decodeResponse_cases avail w with ⟨-, he⟩ | ⟨-, -, he⟩ | ⟨-, he⟩ | hv
  · simp [he, errorResponse]
  · simp [he, errorResponse]
  · simp [he, errorResponse]
  · simp [decodeResponse_ok_iff.2 hv]

/-- No operation answers ILLEGAL_REQUEST (R185). -/
theorem response_status_ne (i : Instr) : (response i).status ≠ .illegalRequest := by
  cases i with
  | decode avail w => exact decodeResponse_status_ne avail w
  | _ => nofun

/-- STATUS is 4 exactly in the answer to a word that is not legal (R184). -/
theorem rspStatus_execute_eq_four (r : Word64) : rspStatus (execute r) = 4#3 ↔ ¬ LegalNumber r.toNat := by
  rcases execute_cases r with ⟨hr, i, he⟩ | ⟨hr, he⟩
  · refine iff_of_false ?_ (not_not_intro hr)
    rw [he, rspStatus_word, Status.code_eq_four]
    exact response_status_ne i
  · exact iff_of_true (by rw [he, rspStatus_word]; rfl) hr

/-- An AVAIL and a window for each STATUS of DECODE: [0x41] is accepted, [0x80] begins with no lead byte, [0xC2, 0x41]
has a bad trailing byte, and [0xC2] is truncated. -/
theorem exists_decode_of_status {st : BitVec 3} (hst : st.toNat ≤ 3) : ∃ (avail : BitVec 3) (w : Window),
    avail ≠ 0#3 ∧ rspStatus (response (.decode avail w)).word = st := by
  have hcases : ∀ st : BitVec 3, st.toNat ≤ 3 → st = 0#3 ∨ st = 1#3 ∨ st = 2#3 ∨ st = 3#3 := by decide
  rcases hcases st hst with rfl | rfl | rfl | rfl
  · exact ⟨1#3, ⟨0x41#8, 0#8, 0#8, 0#8, 0#8, 0#8⟩, by decide, by decide⟩
  · exact ⟨1#3, ⟨0x80#8, 0#8, 0#8, 0#8, 0#8, 0#8⟩, by decide, by decide⟩
  · exact ⟨2#3, ⟨0xC2#8, 0x41#8, 0#8, 0#8, 0#8, 0#8⟩, by decide, by decide⟩
  · exact ⟨1#3, ⟨0xC2#8, 0#8, 0#8, 0#8, 0#8, 0#8⟩, by decide, by decide⟩

/-- Settles O37. -/
theorem statusesAreThoseOfTheOperation : Obligations.StatusesAreThoseOfTheOperation := by
  refine ⟨fun b => ⟨rspStatus_word _, rspStatus_word _, rspStatus_word _⟩, fun v => rspStatus_word _,
    fun avail w => ?_, fun st => exists_decode_of_status, rspStatus_execute_eq_four⟩
  rw [rspStatus_word, Status.code_le_three]
  exact decodeResponse_status_ne avail w

end Sys2Proof.Machine
end

section
/-! Reset and the hazards of the ports: the host presents only to an idle block and holds its word (R204), reads only a
valid response (R205), and sees neither `req_ready` nor `rsp_valid` while `rst` is 1 (R200). -/

namespace Sys2Proof.Machine

section
variable {s : State}

theorem reqReady_iff : s.reqReady s.rst = true ↔ s.busy = false ∧ s.rst = false := by simp [State.reqReady]

/-! ## What the host presents, and when it waits -/

/-- A procedure that presents has its word on the port of an idle block (R204). -/
theorem reqPort_of_present {p : Proc} (ht : s.host.task = some ⟨p, .present⟩) (hb : s.busy = false) :
    s.reqPort = some p.word := by
  rw [State.reqPort_of_idle hb, HostAgent.nextWord, ht]

/-- A scripted cycle has its word on the port of an idle block (R204). -/
theorem reqPort_of_cycle {req : Option Word64} {sample : Bool} {rest : List HostAction} (ht : s.host.task = none)
    (hs : s.host.script = .cycle req sample :: rest) (hb : s.busy = false) : s.reqPort = req := by
  rw [State.reqPort_of_idle hb, HostAgent.nextWord, ht, hs]

/-- A procedure holds its word while `req_ready` is 0 (R204). -/
theorem hostEdge_of_notReady {p : Proc} (ht : s.host.task = some ⟨p, .present⟩) (hready : s.reqReady s.rst = false) :
    hostEdge s = .ok s.host := by
  simp [hostEdge, ht, hready]

/-- A scripted cycle that presents waits while the block is busy (log 13). -/
theorem hostEdge_of_cycle_busy {w : Word64} {sample : Bool} {rest : List HostAction} (ht : s.host.task = none)
    (hs : s.host.script = .cycle (some w) sample :: rest) (hb : s.busy = true) : hostEdge s = .ok s.host := by
  simp [hostEdge, ht, hs, State.cycleEnabled, hb]

/-! ## What the block accepts -/

/-- Only an edge with `req_ready` = 1 accepts: any other leaves a busy block with the word it held. -/
theorem pend_of_notReady {t : State} (hstep : step s = .next t) (hready : s.reqReady s.rst = false)
    (hb : t.busy = true) : s.busy = true ∧ t.pend = s.pend := by
  have hnot : ¬ (s.busy = false ∧ s.rst = false) := by simp [← reqReady_iff, hready]
  obtain ⟨h, -, ⟨-, rfl⟩ | ⟨-, -, -, rfl⟩ | ⟨-, hbusy, -, rfl⟩ | ⟨hr, hidle, -⟩ | ⟨hr, hidle, -⟩⟩ := step_cases hstep
  · cases hb
  · cases hb
  · exact ⟨hbusy, rfl⟩
  · exact absurd ⟨hidle, hr⟩ hnot
  · exact absurd ⟨hidle, hr⟩ hnot

end

/-- Settles O25. -/
theorem hostPresentsOnlyWhileTheBlockIsIdle : Obligations.HostPresentsOnlyWhileTheBlockIsIdle := by
  refine ⟨?busyPort, ?procedure, ?scriptedCycle, fun s t => pend_of_notReady, ?accepted⟩
  case busyPort =>
    intro s hb
    simp [State.portIn, hb]
  case procedure =>
    intro s p ht
    refine ⟨reqPort_of_present ht, fun hready => ?_, fun hready => ?_⟩
    · obtain ⟨t, hstep, hhost, -⟩ := exists_step_of_hostEdge (hostEdge_of_notReady ht hready)
      exact ⟨t, hstep, hhost⟩
    · obtain ⟨hb, hr⟩ := reqReady_iff.1 hready
      exact ⟨_, step_of_request (hostEdge_of_accepted ht hr hb) hr hb (reqPort_of_present ht hb), rfl, rfl, rfl⟩
  case scriptedCycle =>
    intro s w sample rest ht hs
    refine ⟨fun hb => ?_, reqPort_of_cycle ht hs⟩
    obtain ⟨t, hstep, hhost, -⟩ := exists_step_of_hostEdge (hostEdge_of_cycle_busy ht hs hb)
    exact ⟨t, hstep, hhost⟩
  case accepted =>
    intro s t w hstep hready hw
    obtain ⟨hb, hr⟩ := reqReady_iff.1 hready
    obtain ⟨h, hh, -⟩ := step_cases hstep
    rw [step_of_request hh hr hb hw] at hstep
    cases hstep
    exact ⟨rfl, rfl⟩

/-- Settles O29: a step stops exactly when the host's part of it does, and the host goes on everywhere else. -/
theorem stepFaultsOnlyOnAReadWithoutResponse : Obligations.StepFaultsOnlyOnAReadWithoutResponse := by
  have hfault (s : State) (f : Fault) : step s = .fault f ↔
      s.samples = true ∧ s.rspValidPort s.rst = false ∧ f = .responseReadWhileInvalid :=
    (step_fault_iff s f).trans (hostEdge_error_iff s f)
  refine ⟨hfault, fun s => ⟨?_, fun hsound => ?_⟩⟩
  · rintro ⟨t, hstep⟩ ⟨hs, hv⟩
    cases hstep.symm.trans ((hfault s _).2 ⟨hs, hv, rfl⟩)
  · cases hh : hostEdge s with
    | error f =>
      obtain ⟨hs, hv, -⟩ := (hostEdge_error_iff s f).1 hh
      exact absurd ⟨hs, hv⟩ hsound
    | ok h =>
      obtain ⟨t, hstep, -⟩ := exists_step_of_hostEdge hh
      exact ⟨t, hstep⟩

/-- Settles O27. -/
theorem resetEdgeDiscardsTheRequest : Obligations.ResetEdgeDiscardsTheRequest := by
  intro s hr
  refine ⟨by simp [State.reqReady, hr], by simp [State.rspValidPort, hr], fun h hh => ?_⟩
  exact ⟨_, (step_of_hostEdge hh).trans (blockEdge_of_rst hr), rfl, rfl, rfl, rfl⟩

end Sys2Proof.Machine
end
